-- ==== Sys2Proof/Word.lean ====
section
/-! DEFINITION. The widths NF5-CORE moves and stores: every value is an unsigned integer of one of these
widths (spec/00_scope.md R7; spec/10_state.md R30, R35). -/

namespace Sys2Proof

/-- 8 bits: a byte of INBUF, STATUS, ERR_STAGE, the 8-bit fields (R7). -/
abbrev Byte := BitVec 8

/-- 16 bits: CFG_PORT, IMM, the 16-bit fields (R26, R80, R98, R101). -/
abbrev Half := BitVec 16

/-- 32 bits: the command word, lengths and positions, detail words, the 32-bit fields (R6, R80, R232). -/
abbrev Word := BitVec 32

/-- 64 bits: BOOT_TIME_NS (R30, R156). -/
abbrev Quad := BitVec 64

end Sys2Proof
end

