-- ==== Sys2Proof/Syntax.lean ====
section
/-! DEFINITION. The twelve commands of NF5-CORE, one constructor for each row of spec/opcode_table.json
(spec/30_encoding.md R81). -/

namespace Sys2Proof

/-- A legal command. The operand of the three commands that have one is IMM, a 16-bit unsigned value used as it
stands (R82); the others require IMM = 0 and carry nothing (R83). -/
inductive Instr where
  /-- CFG_SET_PORT, OP 0x01 (spec/43_pipeline_and_control.md R215). -/
  | cfgSetPort (port : Half)
  /-- CUR_BIND, OP 0x10 (spec/40_cursor.md R135). -/
  | curBind
  /-- CUR_READ8, OP 0x11 (R137). -/
  | curRead8
  /-- CUR_READ16, OP 0x12 (R138). -/
  | curRead16
  /-- CUR_READ32, OP 0x13 (R139). -/
  | curRead32
  /-- CUR_SKIP N, OP 0x14 (R140). -/
  | curSkip (n : Half)
  /-- NF_HEADER, OP 0x20 (spec/41_netflow_decoder.md R160). -/
  | nfHeader
  /-- NF_RECORDS count, OP 0x21 (R161). -/
  | nfRecords (count : Half)
  /-- NF_DECODE, OP 0x22 (R162). -/
  | nfDecode
  /-- PROCESS_FRAME, OP 0x30 (spec/43_pipeline_and_control.md R213). -/
  | processFrame
  /-- ENTER_NETWORK, OP 0x31 (spec/42_demux.md R186). -/
  | enterNetwork
  /-- ENTER_TRANSPORT, OP 0x32 (R187). -/
  | enterTransport
  deriving DecidableEq, Repr

end Sys2Proof
end

