-- ==== Sys2Proof/WellFormed.lean ====
section
/-! DEFINITION. Which command words are legal: the three conditions of spec/30_encoding.md R83, written from the
table of R81 and apart from the decoder. An `Instr` itself carries only what a legal word can hold, so the checks
are on the word. -/

namespace Sys2Proof

/-- The three fields of a command word (R80). -/
structure Command where
  op  : Byte
  rsv : Byte
  imm : Half
  deriving DecidableEq, Repr

/-- `OP = cmd[7:0]`, `RSV = cmd[15:8]`, `IMM = cmd[31:16]` (R80). -/
def Command.ofWord (w : Word) : Command :=
  { op := w.extractLsb' 0 8, rsv := w.extractLsb' 8 8, imm := w.extractLsb' 16 16 }

/-- R81's table: each operation code, and whether its IMM is an operand (true) or must be 0 (false). -/
def opTable : List (Byte × Bool) :=
  [(0x01, true), (0x10, false), (0x11, false), (0x12, false), (0x13, false), (0x14, true),
   (0x20, false), (0x21, true), (0x22, false), (0x30, false), (0x31, false), (0x32, false)]

/-- R83, condition 1: OP is one of the twelve codes. -/
def Command.opKnown (c : Command) : Bool := (c.op, true) ∈ opTable || (c.op, false) ∈ opTable

/-- R83, condition 2: RSV = 0. -/
def Command.rsvZero (c : Command) : Bool := c.rsv == 0

/-- R83, condition 3: IMM = 0 whenever the table says "must be 0". -/
def Command.operandAllowed (c : Command) : Bool := !((c.op, false) ∈ opTable) || c.imm == 0

/-- A command is legal if and only if the three conditions of R83 hold. -/
def Command.legal (c : Command) : Bool := c.opKnown && c.rsvZero && c.operandAllowed

/-- A command word is legal (R83). -/
def legalWord (w : Word) : Bool := (Command.ofWord w).legal

end Sys2Proof
end

