-- ==== Sys2Proof/Decode.lean ====
section
/-! DEFINITION. The decoder of command words, total and rejecting by name, and the encoder
(spec/30_encoding.md R80 to R83). -/

namespace Sys2Proof

/-- Why a word is illegal; the three conditions of R83. Every one of them raises ILLEGAL_COMMAND, with the same
registers (spec/60_exceptions.md R235). -/
inductive Illegal where
  /-- OP is none of the twelve codes of R81. -/
  | unknownOp (op : Byte)
  /-- RSV is not 0. -/
  | reservedNonzero (rsv : Byte)
  /-- IMM is not 0 on a command that takes no operand. -/
  | operandNonzero (imm : Half)
  deriving DecidableEq, Repr

/-- R81, row by row: whether the command takes IMM as an operand, and the command. -/
def opRow (op : Byte) (imm : Half) : Option (Bool × Instr) :=
  match op with
  | 0x01#8 => some (true, .cfgSetPort imm)
  | 0x10#8 => some (false, .curBind)
  | 0x11#8 => some (false, .curRead8)
  | 0x12#8 => some (false, .curRead16)
  | 0x13#8 => some (false, .curRead32)
  | 0x14#8 => some (true, .curSkip imm)
  | 0x20#8 => some (false, .nfHeader)
  | 0x21#8 => some (true, .nfRecords imm)
  | 0x22#8 => some (false, .nfDecode)
  | 0x30#8 => some (false, .processFrame)
  | 0x31#8 => some (false, .enterNetwork)
  | 0x32#8 => some (false, .enterTransport)
  | _ => none

/-- The decoder (R80 to R83): the command a legal word stands for, or the condition of R83 it breaks. -/
def decode (w : Word) : Except Illegal Instr :=
  match opRow (w.extractLsb' 0 8) (w.extractLsb' 16 16) with
  | none => .error (.unknownOp (w.extractLsb' 0 8))
  | some (takesOperand, i) =>
    if w.extractLsb' 8 8 ≠ 0 then .error (.reservedNonzero (w.extractLsb' 8 8))
    else if takesOperand = false ∧ w.extractLsb' 16 16 ≠ 0 then .error (.operandNonzero (w.extractLsb' 16 16))
    else .ok i

/-- A word from its operand and operation code, with RSV = 0 (R80). -/
def packWord (imm : Half) (op : Byte) : Word := imm ++ (0#8 ++ op)

/-- The encoder: the one word of a command, written from R81's table (R80, R84). -/
def encode : Instr → Word
  | .cfgSetPort port => packWord port 0x01
  | .curBind => packWord 0 0x10
  | .curRead8 => packWord 0 0x11
  | .curRead16 => packWord 0 0x12
  | .curRead32 => packWord 0 0x13
  | .curSkip n => packWord n 0x14
  | .nfHeader => packWord 0 0x20
  | .nfRecords count => packWord count 0x21
  | .nfDecode => packWord 0 0x22
  | .processFrame => packWord 0 0x30
  | .enterNetwork => packWord 0 0x31
  | .enterTransport => packWord 0 0x32

/-- The command word whose low `nbits` bits are `w` and whose other bits are 0. The word has no byte order
(spec/20_memory.md R61), so nothing is laid out (log entry 12). -/
def tableWord (nbits w : Nat) : Word := BitVec.ofNat 32 (w % 2 ^ nbits)

/-- The command the decoder reads from the `nbits` bits `w` of an opcode-table row; a command is always one
32-bit word (R80), so more bits than that are no command. -/
def decodeTableWord (nbits w : Nat) : Option Instr :=
  if nbits ≤ 32 then (decode (tableWord nbits w)).toOption else none

end Sys2Proof
end

