-- ==== Sys2Proof/Config.lean ====
section
/-! DEFINITION. What an implementation fixes and the spec leaves open (spec/00_scope.md R6). -/

namespace Sys2Proof

/-- `MAX_FRAME_LEN`, the largest INBUF contents the host can load. The spec leaves it OPEN with
`MAX_FRAME_LEN < 2^32` (R6, D25), which the type carries. It has no body, so every statement holds for every
value of it. DESIGN CHOICE, log entry 5; safe. -/
opaque Config.maxFrameLen : Word

end Sys2Proof
end

