-- ==== Sys2Proof/Machine/State.lean ====
section
/-! DEFINITION. The state of one NF5-CORE instance (spec/10_state.md), the values its commands compute with, the
host's actions, and the reasons a step can stop. -/

namespace Sys2Proof.Machine

/-! ## INBUF -/

/-- The contents of INBUF (R22): the bytes that are not 0, as (address, byte) pairs with addresses strictly
rising. Which addresses exist is said by INBUF_LEN alone (R65); log entry 3. -/
abbrev Inbuf := List Host.Cell

/-- A window `⟨base, len⟩`: the INBUF bytes `base .. base+len-1` (spec/00_scope.md R8). -/
structure Window where
  base : Nat
  len  : Nat
  deriving DecidableEq, Repr

/-- A cursor `⟨w, pos⟩` over a window (spec/40_cursor.md R130). -/
structure Cursor where
  win : Window
  pos : Nat
  deriving DecidableEq, Repr

/-! ## Errors -/

/-- The error codes (spec/60_exceptions.md R230). -/
inductive ErrCode where
  | outOfBounds
  | malformedHeader
  | unsupportedVersion
  | truncatedRecord
  | unexpectedLinkType
  | unexpectedNetworkProtocol
  | unexpectedPort
  | illegalCommand
  deriving DecidableEq, Repr

/-- The stage tags (R231). -/
inductive Stage where
  | none
  | link
  | network
  | transport
  | netflow
  | cursor
  deriving DecidableEq, Repr

/-- `Err(stage, code, a, b, c)`: a stage tag, an error code and three 32-bit detail words (spec/00_scope.md R8). -/
structure PipelineError where
  stage : Stage
  code  : ErrCode
  a     : Word
  b     : Word
  c     : Word
  deriving DecidableEq, Repr

/-! ## Decoded values -/

/-- The nine header fields, in the order of spec/30_encoding.md R98. -/
structure NfHeader where
  version          : Half
  count            : Half
  sysUptimeMs      : Word
  unixSecs         : Word
  unixNsecs        : Word
  flowSeq          : Word
  engineType       : Byte
  engineId         : Byte
  samplingInterval : Half
  deriving DecidableEq, Repr

/-- Every header register 0 (R236, R260). -/
def NfHeader.zero : NfHeader := ⟨0, 0, 0, 0, 0, 0, 0, 0, 0⟩

/-- One entry of REC: the 18 fields of R31. -/
structure FlowRecord where
  srcAddr     : Word
  dstAddr     : Word
  nextHop     : Word
  inputIf     : Half
  outputIf    : Half
  packetCount : Word
  octetCount  : Word
  firstMs     : Word
  lastMs      : Word
  srcPort     : Half
  dstPort     : Half
  tcpFlags    : Byte
  protocol    : Byte
  tos         : Byte
  srcAs       : Half
  dstAs       : Half
  srcMask     : Byte
  dstMask     : Byte
  deriving DecidableEq, Repr

/-- What a decode-class command that succeeds commits: a header or NONE, the boot time and the records
(spec/43_pipeline_and_control.md R211). -/
structure DecodeResult where
  hdr  : Option NfHeader
  boot : Quad
  recs : List FlowRecord
  deriving DecidableEq, Repr

/-- Where the chain is entered (spec/42_demux.md R185). -/
inductive Entry where
  | link
  | network
  | transport
  | netflow
  deriving DecidableEq, Repr

/-! ## The host -/

/-- The registers the host names (R35), the write-only command port among them. -/
inductive HostRegister where
  | inbufLen | cfgPort | status | errStage | errA | errB | errC
  | hdrValid | hdrVersion | hdrCount | hdrSysUptimeMs | hdrUnixSecs | hdrUnixNsecs | hdrFlowSeq
  | hdrEngineType | hdrEngineId | hdrSamplingInterval | bootTimeNs | recCount
  | curLen | curPos | curData | commandPort
  deriving DecidableEq, Repr

/-- The fields of a REC entry (R31). -/
inductive RecField where
  | srcAddr | dstAddr | nextHop | inputIf | outputIf | packetCount | octetCount | firstMs | lastMs
  | srcPort | dstPort | tcpFlags | protocol | tos | srcAs | dstAs | srcMask | dstMask
  deriving DecidableEq, Repr

/-- What a host read names: a register, a byte of INBUF, or a field of `REC[i]` (R35, R36). -/
inductive ReadTarget where
  | register (r : HostRegister)
  | inbufByte (address : Nat)
  | recField (index : Nat) (f : RecField)
  deriving DecidableEq, Repr

/-- The host's actions (R216). `writeRegister` is the direct register write that has no move; it is here so that
the model refuses it by name. -/
inductive HostAction where
  | reset
  | loadInbuf (bytes : List Byte)
  | command (word : Word)
  | read (target : ReadTarget)
  | writeRegister (r : HostRegister) (value : Nat)
  deriving DecidableEq, Repr

/-! ## The state -/

/-- Every piece of state of R35, and one field of the model's own, `host`. -/
structure State where
  /-- The actions the host is still to take, oldest first. The MODEL's own field: the host is the block's
  environment (R216) and the block has no program counter (R21). DESIGN CHOICE, log entry 1; safe. -/
  host       : List HostAction
  /-- INBUF (R22). -/
  inbuf      : Inbuf
  /-- INBUF_LEN (R22). -/
  inbufLen   : Word
  /-- CFG_PORT (R26). -/
  cfgPort    : Half
  /-- STATUS (R28). -/
  status     : Byte
  /-- ERR_STAGE (R28). -/
  errStage   : Byte
  /-- ERR_A (R28). -/
  errA       : Word
  /-- ERR_B (R28). -/
  errB       : Word
  /-- ERR_C (R28). -/
  errC       : Word
  /-- HDR_VALID, one bit (R30). -/
  hdrValid   : Bool
  /-- The nine HDR_* registers (R30). -/
  hdr        : NfHeader
  /-- BOOT_TIME_NS (R30). -/
  bootTimeNs : Quad
  /-- REC_COUNT (R30). -/
  recCount   : Half
  /-- REC (R30, R31). -/
  recs       : List FlowRecord
  /-- CUR_LEN (R24). -/
  curLen     : Word
  /-- CUR_POS (R24). -/
  curPos     : Word
  /-- CUR_DATA (R24). -/
  curData    : Word
  deriving DecidableEq, Repr

/-- The machine right after reset: R35's reset values, and no host action waiting (log entry 1). -/
def State.reset : State :=
  { host := [], inbuf := [], inbufLen := 0, cfgPort := 9500,
    status := 0, errStage := 0, errA := 0, errB := 0, errC := 0,
    hdrValid := false, hdr := NfHeader.zero, bootTimeNs := 0, recCount := 0, recs := [],
    curLen := 0, curPos := 0, curData := 0 }

/-! ## Stops -/

/-- Why a step faults. The block itself never stops (R244): both are accesses to what the spec says does not
exist. -/
inductive Fault where
  /-- A read of INBUF at or beyond INBUF_LEN: by a cursor read in a state with CUR_LEN > INBUF_LEN, which R25
  rules out, or by a host read (R65, R67). Safe: the model stops; log entries 4 and 8. -/
  | inbufAddress
  /-- A host read of `REC[i]` with `i >= REC_COUNT` (R31). Safe: the model stops; log entry 8. -/
  | noSuchRecord
  deriving DecidableEq, Repr

/-- Why a step is refused: a host action that has no move. -/
inductive Refusal where
  /-- An instruction whose meaning is not written yet, raised by exec alone. Safe: the model stops. -/
  | notModelled (mnemonic : String)
  /-- LOAD_INBUF of more than MAX_FRAME_LEN bytes (R23), raised by the host action. Safe: the spec gives it no
  move; log entry 6. -/
  | frameTooLong
  /-- A direct register write by the host (R216), raised by the host action. Safe: the spec gives it no move;
  log entry 7. -/
  | registerWrite
  /-- A host read of the write-only command port (R35), raised by the host action. Safe: the spec gives it no
  value; log entry 8. -/
  | commandPortRead
  deriving DecidableEq, Repr

end Sys2Proof.Machine
end

