-- ==== Sys2Proof/Machine/Flags.lean ====
section
/-! DEFINITION. The flags of NF5-CORE: the STATUS codes, the stage tags and the writes of the status group and of
HDR_VALID (spec/60_exceptions.md R230, R231; spec/10_state.md R28 to R30). -/

namespace Sys2Proof.Machine

/-- The STATUS value of an error code (R230). -/
def ErrCode.statusValue : ErrCode → Byte
  | .outOfBounds => 1
  | .malformedHeader => 2
  | .unsupportedVersion => 3
  | .truncatedRecord => 4
  | .unexpectedLinkType => 5
  | .unexpectedNetworkProtocol => 6
  | .unexpectedPort => 7
  | .illegalCommand => 15

/-- The ERR_STAGE value of a stage tag (R231). -/
def Stage.tagValue : Stage → Byte
  | .none => 0
  | .link => 1
  | .network => 2
  | .transport => 3
  | .netflow => 4
  | .cursor => 5

/-- The write of a success to the status group: STATUS, ERR_STAGE and the three detail words 0 (R28). -/
def State.statusOk (s : State) : State :=
  { s with status := 0, errStage := 0, errA := 0, errB := 0, errC := 0 }

/-- Taking an error: the one way an `Err` becomes register values (R233). Nothing else is saved, and control stays
with the host (R237, R243). -/
def State.statusErr (s : State) (e : PipelineError) : State :=
  { s with status := e.code.statusValue, errStage := e.stage.tagValue, errA := e.a, errB := e.b, errC := e.c }

/-- HDR_VALID and the header registers for a header or NONE, with the boot time (R211). -/
def State.writeHeader (s : State) : Option NfHeader → Quad → State
  | none, _ => { s with hdrValid := false, hdr := NfHeader.zero, bootTimeNs := 0 }
  | some h, boot => { s with hdrValid := true, hdr := h, bootTimeNs := boot }

/-- `REC <- recs; REC_COUNT <- |recs|` (R211). -/
def State.writeRecords (s : State) (recs : List FlowRecord) : State :=
  { s with recs := recs, recCount := BitVec.ofNat 16 recs.length }

end Sys2Proof.Machine
end

