-- ==== Sys2Proof/Machine/Operands.lean ====
section
/-! DEFINITION. What the commands operate on: the two windows over INBUF and the 16-bit operand IMM
(spec/30_encoding.md R82; spec/40_cursor.md section 2; spec/41_netflow_decoder.md section 2). -/

namespace Sys2Proof.Machine

/-- `W0 = ⟨0, INBUF_LEN⟩`: all of INBUF, which every decode-class command runs on. -/
def State.wholeInbuf (s : State) : Window := ⟨0, s.inbufLen.toNat⟩

/-- `U = ⟨⟨0, CUR_LEN⟩, CUR_POS⟩`: the user cursor, always a window at INBUF address 0. -/
def State.userCursor (s : State) : Cursor := ⟨⟨0, s.curLen.toNat⟩, s.curPos.toNat⟩

/-- IMM as a byte count or a record count: unsigned, as it stands (R82). -/
def immCount (imm : Half) : Nat := imm.toNat

/-- `Sub(w, k)`: the inner payload that starts `k` bytes into `w`, for `k <= w.len` (spec/00_scope.md R8). -/
def Window.sub (w : Window) (k : Nat) : Window := ⟨w.base + k, w.len - k⟩

/-- A cursor made over `w` starts at position 0 (R130). -/
def Cursor.start (w : Window) : Cursor := ⟨w, 0⟩

end Sys2Proof.Machine
end

