-- ==== Sys2Proof/Machine/Ops.lean ====
section
/-! DEFINITION. The named operations the meanings share: reading and loading INBUF, the cursor primitives, and the
write-backs of a command, taking an error among them. -/

namespace Sys2Proof.Machine

/-! ## INBUF -/

/-- The byte an INBUF address holds; an unlisted address holds 0 (log entry 3). Meant for addresses below
INBUF_LEN: `State.readByte` says which exist. -/
def Inbuf.byteAt : Inbuf → Nat → Byte
  | [], _ => 0
  | (address, byte) :: rest, a => if address = a then byte else Inbuf.byteAt rest a

/-- `MemRead(addr, n)`: the big-endian unsigned value of `n` bytes (spec/00_scope.md R8; spec/20_memory.md R60). -/
def Inbuf.memRead (m : Inbuf) (addr : Nat) : Nat → Nat
  | 0 => 0
  | n + 1 => m.memRead addr n * 256 + (m.byteAt (addr + n)).toNat

/-- `WinRead(w, off, n)` (R8). -/
def Inbuf.winRead (m : Inbuf) (w : Window) (off n : Nat) : Nat := m.memRead (w.base + off) n

/-- `INBUF[a]`: a byte for `0 <= a < INBUF_LEN`, and no byte at any other address (R8, R65). -/
def State.readByte (s : State) (a : Nat) : Option Byte :=
  if a < s.inbufLen.toNat then some (s.inbuf.byteAt a) else none

/-- The contents of INBUF for a byte sequence that starts at address `base`: the canonical list. -/
def Inbuf.ofBytesFrom (base : Nat) : List Byte → Inbuf
  | [] => []
  | b :: rest => if b = 0 then Inbuf.ofBytesFrom (base + 1) rest
                 else (base, b) :: Inbuf.ofBytesFrom (base + 1) rest

/-- `INBUF <- bytes` (R22). -/
def Inbuf.ofBytes (bytes : List Byte) : Inbuf := Inbuf.ofBytesFrom 0 bytes

/-- The list is canonical above `lo`: addresses strictly rising from `lo`, and no entry 0. -/
def Inbuf.wfFrom : Nat → Inbuf → Bool
  | _, [] => true
  | lo, (address, byte) :: rest => decide (lo ≤ address) && byte != 0 && Inbuf.wfFrom (address + 1) rest

/-- The canonical form of INBUF's contents (log entry 3). -/
def Inbuf.wf (m : Inbuf) : Bool := Inbuf.wfFrom 0 m

/-- Every listed address is below `len`: nothing is listed outside INBUF. -/
def Inbuf.below (m : Inbuf) (len : Nat) : Bool := m.all fun cell => decide (cell.1 < len)

/-- The effect of `LOAD_INBUF(bytes)`, the only writer of INBUF and INBUF_LEN (R22). -/
def State.loadInbuf (s : State) (bytes : List Byte) : State :=
  { s with inbuf := Inbuf.ofBytes bytes, inbufLen := BitVec.ofNat 32 bytes.length, curLen := 0, curPos := 0 }

/-! ## Errors of the internal functions -/

/-- `raise Code(stage, a, b, c)` with the detail words as numbers. Every number a rule puts there is below 2^32
(R9), so it is stored as it stands (log entry 13). -/
def raiseError {α : Type} (code : ErrCode) (stage : Stage) (a b c : Nat) : Except PipelineError α :=
  .error { stage := stage, code := code, a := BitVec.ofNat 32 a, b := BitVec.ofNat 32 b, c := BitVec.ofNat 32 c }

/-! ## Cursor primitives (spec/40_cursor.md section 1) -/

/-- `CurRead(c, n, stage)`: an `n`-byte big-endian field, and the cursor behind it (R131). -/
def curRead (m : Inbuf) (c : Cursor) (n : Nat) (stage : Stage) : Except PipelineError (Nat × Cursor) :=
  if c.pos + n > c.win.len then raiseError .outOfBounds stage c.pos n c.win.len
  else .ok (m.winRead c.win c.pos n, { c with pos := c.pos + n })

/-- `CurSkip(c, n, stage)`: the cursor `n` bytes on, nothing read (R132). -/
def curSkip (c : Cursor) (n : Nat) (stage : Stage) : Except PipelineError Cursor :=
  if c.pos + n > c.win.len then raiseError .outOfBounds stage c.pos n c.win.len
  else .ok { c with pos := c.pos + n }

/-- `RequireLen(w, n, stage)`: the minimum-length check (R133). -/
def requireLen (w : Window) (n : Nat) (stage : Stage) : Except PipelineError Unit :=
  if n > w.len then raiseError .outOfBounds stage 0 n w.len else .ok ()

/-! ## Write-backs -/

/-- `CommitOk(h, boot, recs)`: the success write-back of a decode-class command
(spec/43_pipeline_and_control.md R211). -/
def State.commitOk (s : State) (r : DecodeResult) : State :=
  (s.statusOk.writeHeader r.hdr r.boot).writeRecords r.recs

/-- `CommitErr(stage, code, a, b, c)`: the error write-back of a decode-class command
(spec/60_exceptions.md R236). -/
def State.commitErr (s : State) (e : PipelineError) : State :=
  ((s.statusErr e).writeHeader none 0).writeRecords []

/-- The write-back of a decode-class command, from what its internal functions return (R210). -/
def State.commit (s : State) : Except PipelineError DecodeResult → State
  | .ok r => s.commitOk r
  | .error e => s.commitErr e

/-- `IllegalCommand(cmd)`: what an illegal word does (R235). -/
def State.illegalCommand (s : State) (cmd : Word) : State :=
  s.statusErr { stage := .none, code := .illegalCommand, a := cmd, b := 0, c := 0 }

end Sys2Proof.Machine
end

