-- ==== Sys2Proof/Machine/Cursor.lean ====
section
/-! DEFINITION. The five cursor commands (spec/40_cursor.md section 2). -/

namespace Sys2Proof.Machine

/-- The shape of CUR_READ8/16/32: CurRead on the user cursor and the write-back of R136. The value is
zero-extended into CUR_DATA. A read that passes the bounds check but touches an address at or beyond INBUF_LEN
faults; R25 rules such a state out (log entry 4). -/
def readCommand (n : Nat) (s : State) : Host.Outcome State Fault Refusal :=
  match curRead s.inbuf s.userCursor n .cursor with
  | .error e => .next (s.statusErr e)
  | .ok (v, u) =>
    if u.pos > s.inbufLen.toNat then .fault .inbufAddress
    else .next (State.statusOk { s with curData := BitVec.ofNat 32 v, curPos := BitVec.ofNat 32 u.pos })

/-- CUR_BIND (R135). -/
def execCurBind (s : State) : Host.Outcome State Fault Refusal :=
  .next (State.statusOk { s with curLen := s.inbufLen, curPos := 0, curData := 0 })

/-- CUR_READ8 (R137). -/
def execCurRead8 (s : State) : Host.Outcome State Fault Refusal := readCommand 1 s

/-- CUR_READ16 (R138). -/
def execCurRead16 (s : State) : Host.Outcome State Fault Refusal := readCommand 2 s

/-- CUR_READ32 (R139). -/
def execCurRead32 (s : State) : Host.Outcome State Fault Refusal := readCommand 4 s

/-- CUR_SKIP N (R140): CurSkip on the user cursor and the write-back of R136; CUR_DATA is unchanged. -/
def execCurSkip (imm : Half) (s : State) : Host.Outcome State Fault Refusal :=
  match curSkip s.userCursor (immCount imm) .cursor with
  | .error e => .next (s.statusErr e)
  | .ok u => .next (State.statusOk { s with curPos := BitVec.ofNat 32 u.pos })

end Sys2Proof.Machine
end

