-- ==== Sys2Proof/Machine/Netflow.lean ====
section
/-! DEFINITION. The Netflow-V5 decoder and its three commands (spec/41_netflow_decoder.md). -/

namespace Sys2Proof.Machine

/-! ## Decoder functions (section 1) -/

/-- `HdrRead`: a cursor read of the header, whose OutOfBounds becomes MalformedHeader and keeps its detail words
(R150, R233). -/
def hdrRead (m : Inbuf) (c : Cursor) (n : Nat) : Except PipelineError (Nat × Cursor) :=
  match curRead m c n .netflow with
  | .error e => .error { e with code := .malformedHeader }
  | .ok r => .ok r

/-- `DecodeHeader(w)`: the nine fields in order, then the version check (R150 to R153). -/
def decodeHeader (m : Inbuf) (w : Window) : Except PipelineError NfHeader := do
  let (version, c) ← hdrRead m (Cursor.start w) 2
  let (count, c) ← hdrRead m c 2
  let (sysUptimeMs, c) ← hdrRead m c 4
  let (unixSecs, c) ← hdrRead m c 4
  let (unixNsecs, c) ← hdrRead m c 4
  let (flowSeq, c) ← hdrRead m c 4
  let (engineType, c) ← hdrRead m c 1
  let (engineId, c) ← hdrRead m c 1
  let (samplingInterval, _) ← hdrRead m c 2
  if version ≠ 5 then raiseError .unsupportedVersion .netflow version 0 0
  else
    .ok { version := BitVec.ofNat 16 version, count := BitVec.ofNat 16 count,
          sysUptimeMs := BitVec.ofNat 32 sysUptimeMs, unixSecs := BitVec.ofNat 32 unixSecs,
          unixNsecs := BitVec.ofNat 32 unixNsecs, flowSeq := BitVec.ofNat 32 flowSeq,
          engineType := BitVec.ofNat 8 engineType, engineId := BitVec.ofNat 8 engineId,
          samplingInterval := BitVec.ofNat 16 samplingInterval }

/-- The wall clock of a header in nanoseconds, on 64-bit unsigned values (R156). -/
def wallNs (h : NfHeader) : Quad := h.unixSecs.setWidth 64 * 1000000000#64 + h.unixNsecs.setWidth 64

/-- The uptime of a header in nanoseconds, on 64-bit unsigned values (R156). -/
def uptimeNs (h : NfHeader) : Quad := h.sysUptimeMs.setWidth 64 * 1000000#64

/-- `BootTime(hdr)`: the subtraction is modulo 2^64 (R156). -/
def bootTime (h : NfHeader) : Quad := wallNs h - uptimeNs h

/-- `RecordAt(w, off)`: the 18 fields of the 48 bytes at `off`; bytes 36, 46 and 47 are skipped (R158). -/
def recordAt (m : Inbuf) (w : Window) (off : Nat) : FlowRecord :=
  { srcAddr := BitVec.ofNat 32 (m.winRead w (off + 0) 4)
    dstAddr := BitVec.ofNat 32 (m.winRead w (off + 4) 4)
    nextHop := BitVec.ofNat 32 (m.winRead w (off + 8) 4)
    inputIf := BitVec.ofNat 16 (m.winRead w (off + 12) 2)
    outputIf := BitVec.ofNat 16 (m.winRead w (off + 14) 2)
    packetCount := BitVec.ofNat 32 (m.winRead w (off + 16) 4)
    octetCount := BitVec.ofNat 32 (m.winRead w (off + 20) 4)
    firstMs := BitVec.ofNat 32 (m.winRead w (off + 24) 4)
    lastMs := BitVec.ofNat 32 (m.winRead w (off + 28) 4)
    srcPort := BitVec.ofNat 16 (m.winRead w (off + 32) 2)
    dstPort := BitVec.ofNat 16 (m.winRead w (off + 34) 2)
    tcpFlags := BitVec.ofNat 8 (m.winRead w (off + 37) 1)
    protocol := BitVec.ofNat 8 (m.winRead w (off + 38) 1)
    tos := BitVec.ofNat 8 (m.winRead w (off + 39) 1)
    srcAs := BitVec.ofNat 16 (m.winRead w (off + 40) 2)
    dstAs := BitVec.ofNat 16 (m.winRead w (off + 42) 2)
    srcMask := BitVec.ofNat 8 (m.winRead w (off + 44) 1)
    dstMask := BitVec.ofNat 8 (m.winRead w (off + 45) 1) }

/-- The record loop from record `i` on, `todo` records left of `count` (R157). -/
def decodeRecordsFrom (m : Inbuf) (w : Window) (count : Nat) : (i todo : Nat) → Except PipelineError (List FlowRecord)
  | _, 0 => .ok []
  | i, todo + 1 =>
    if 24 + 48 * i + 48 > w.len then raiseError .truncatedRecord .netflow i count w.len
    else do
      let rest ← decodeRecordsFrom m w count (i + 1) todo
      .ok (recordAt m w (24 + 48 * i) :: rest)

/-- `DecodeRecords(w, count)`: `count` records from offset 24, in on-wire order (R157). -/
def decodeRecords (m : Inbuf) (w : Window) (count : Nat) : Except PipelineError (List FlowRecord) :=
  decodeRecordsFrom m w count 0 count

/-- `NetflowDecode(w)`: header, then the records it counts (R159). -/
def netflowDecode (m : Inbuf) (w : Window) : Except PipelineError DecodeResult := do
  let hdr ← decodeHeader m w
  let recs ← decodeRecords m w hdr.count.toNat
  .ok { hdr := some hdr, boot := bootTime hdr, recs := recs }

/-! ## Decoder commands (section 2) -/

/-- NF_HEADER (R160). -/
def execNfHeader (s : State) : Host.Outcome State Fault Refusal :=
  .next (s.commit (do
    let hdr ← decodeHeader s.inbuf s.wholeInbuf
    .ok { hdr := some hdr, boot := bootTime hdr, recs := [] }))

/-- NF_RECORDS count (R161): no header is read, checked or committed. -/
def execNfRecords (imm : Half) (s : State) : Host.Outcome State Fault Refusal :=
  .next (s.commit (do
    let recs ← decodeRecords s.inbuf s.wholeInbuf (immCount imm)
    .ok { hdr := none, boot := 0, recs := recs }))

/-- NF_DECODE (R162). -/
def execNfDecode (s : State) : Host.Outcome State Fault Refusal :=
  .next (s.commit (netflowDecode s.inbuf s.wholeInbuf))

end Sys2Proof.Machine
end

