-- ==== Sys2Proof/Machine/Demux.lean ====
section
/-! DEFINITION. The layer demultiplexers, the chain and the two commands that enter it below the link layer
(spec/42_demux.md). -/

namespace Sys2Proof.Machine

/-- `LinkStage(w)` (R180). -/
def linkStage (m : Inbuf) (w : Window) : Except PipelineError Window := do
  requireLen w 14 .link
  let etype := m.winRead w 12 2
  if etype ≠ 0x0800 then raiseError .unexpectedLinkType .link etype 0 0
  else .ok (w.sub 14)

/-- `IHL = WinRead(w, 0, 1)[3:0]` (spec/30_encoding.md R93). -/
def ihlOf (m : Inbuf) (w : Window) : Nat := m.winRead w 0 1 % 16

/-- `NetStage(w)` (R181). -/
def netStage (m : Inbuf) (w : Window) : Except PipelineError Window := do
  requireLen w 20 .network
  let ihl := ihlOf m w
  if ihl < 5 then raiseError .malformedHeader .network ihl 0 w.len
  else if 4 * ihl > w.len then raiseError .outOfBounds .network 20 (4 * ihl - 20) w.len
  else
    let proto := m.winRead w 9 1
    if proto ≠ 17 then raiseError .unexpectedNetworkProtocol .network proto 0 0
    else .ok (w.sub (4 * ihl))

/-- `TransportStage(w, port)` (R183). -/
def transportStage (m : Inbuf) (port : Half) (w : Window) : Except PipelineError Window := do
  requireLen w 8 .transport
  let dport := m.winRead w 2 2
  if dport ≠ port.toNat then raiseError .unexpectedPort .transport dport port.toNat 0
  else .ok (w.sub 8)

/-- The chain from the transport stage on. -/
def chainTransport (m : Inbuf) (port : Half) (w : Window) : Except PipelineError DecodeResult := do
  let w ← transportStage m port w
  netflowDecode m w

/-- The chain from the network stage on. -/
def chainNetwork (m : Inbuf) (port : Half) (w : Window) : Except PipelineError DecodeResult := do
  let w ← netStage m w
  chainTransport m port w

/-- The chain from the link stage on. -/
def chainLink (m : Inbuf) (port : Half) (w : Window) : Except PipelineError DecodeResult := do
  let w ← linkStage m w
  chainNetwork m port w

/-- `Chain(entry, w)`: the fixed stage chain from `entry` onward; an error of a stage comes back unchanged
(R185). -/
def chain (m : Inbuf) (port : Half) (w : Window) : Entry → Except PipelineError DecodeResult
  | .link => chainLink m port w
  | .network => chainNetwork m port w
  | .transport => chainTransport m port w
  | .netflow => netflowDecode m w

/-- The shape of PROCESS_FRAME, ENTER_NETWORK and ENTER_TRANSPORT: the chain over all of INBUF with the CFG_PORT
at the start of the command, and the write-back (R186, R187; spec/43_pipeline_and_control.md R213). -/
def chainCommand (entry : Entry) (s : State) : Host.Outcome State Fault Refusal :=
  .next (s.commit (chain s.inbuf s.cfgPort s.wholeInbuf entry))

/-- ENTER_NETWORK (R186). -/
def execEnterNetwork (s : State) : Host.Outcome State Fault Refusal := chainCommand .network s

/-- ENTER_TRANSPORT (R187). -/
def execEnterTransport (s : State) : Host.Outcome State Fault Refusal := chainCommand .transport s

end Sys2Proof.Machine
end

