-- ==== Sys2Proof/Machine/Pipeline.lean ====
section
/-! DEFINITION. The pipeline command and the configuration command (spec/43_pipeline_and_control.md). -/

namespace Sys2Proof.Machine

/-- PROCESS_FRAME (R213, R214). -/
def execProcessFrame (s : State) : Host.Outcome State Fault Refusal := chainCommand .link s

/-- CFG_SET_PORT port (R215). -/
def execCfgSetPort (port : Half) (s : State) : Host.Outcome State Fault Refusal :=
  .next (State.statusOk { s with cfgPort := port })

end Sys2Proof.Machine
end

