-- ==== Sys2Proof/Machine/Dispatch.lean ====
section
/-! DEFINITION. One arm for each command (spec/43_pipeline_and_control.md R210). -/

namespace Sys2Proof.Machine

def exec (i : Instr) (s : State) : Host.Outcome State Fault Refusal :=
  match i with
  | .cfgSetPort port => Sys2Proof.Machine.execCfgSetPort port s
  | .curBind => Sys2Proof.Machine.execCurBind s
  | .curRead8 => Sys2Proof.Machine.execCurRead8 s
  | .curRead16 => Sys2Proof.Machine.execCurRead16 s
  | .curRead32 => Sys2Proof.Machine.execCurRead32 s
  | .curSkip n => Sys2Proof.Machine.execCurSkip n s
  | .nfHeader => Sys2Proof.Machine.execNfHeader s
  | .nfRecords count => Sys2Proof.Machine.execNfRecords count s
  | .nfDecode => Sys2Proof.Machine.execNfDecode s
  | .processFrame => Sys2Proof.Machine.execProcessFrame s
  | .enterNetwork => Sys2Proof.Machine.execEnterNetwork s
  | .enterTransport => Sys2Proof.Machine.execEnterTransport s

end Sys2Proof.Machine
end

