-- ==== Sys2Proof/Machine/HostPort.lean ====
section
/-! DEFINITION. The host's actions on the block: reset, loading INBUF, writing a command word, reading
(spec/43_pipeline_and_control.md R210, R216). -/

namespace Sys2Proof.Machine

/-- A bit as a number. -/
def bitValue (b : Bool) : Nat := if b then 1 else 0

/-- The value a host read of a register gives; the command port is write only (R35). -/
def State.registerValue (s : State) : HostRegister → Option Nat
  | .inbufLen => some s.inbufLen.toNat
  | .cfgPort => some s.cfgPort.toNat
  | .status => some s.status.toNat
  | .errStage => some s.errStage.toNat
  | .errA => some s.errA.toNat
  | .errB => some s.errB.toNat
  | .errC => some s.errC.toNat
  | .hdrValid => some (bitValue s.hdrValid)
  | .hdrVersion => some s.hdr.version.toNat
  | .hdrCount => some s.hdr.count.toNat
  | .hdrSysUptimeMs => some s.hdr.sysUptimeMs.toNat
  | .hdrUnixSecs => some s.hdr.unixSecs.toNat
  | .hdrUnixNsecs => some s.hdr.unixNsecs.toNat
  | .hdrFlowSeq => some s.hdr.flowSeq.toNat
  | .hdrEngineType => some s.hdr.engineType.toNat
  | .hdrEngineId => some s.hdr.engineId.toNat
  | .hdrSamplingInterval => some s.hdr.samplingInterval.toNat
  | .bootTimeNs => some s.bootTimeNs.toNat
  | .recCount => some s.recCount.toNat
  | .curLen => some s.curLen.toNat
  | .curPos => some s.curPos.toNat
  | .curData => some s.curData.toNat
  | .commandPort => none

/-- The value of one field of a REC entry (R31). -/
def FlowRecord.fieldValue (r : FlowRecord) : RecField → Nat
  | .srcAddr => r.srcAddr.toNat
  | .dstAddr => r.dstAddr.toNat
  | .nextHop => r.nextHop.toNat
  | .inputIf => r.inputIf.toNat
  | .outputIf => r.outputIf.toNat
  | .packetCount => r.packetCount.toNat
  | .octetCount => r.octetCount.toNat
  | .firstMs => r.firstMs.toNat
  | .lastMs => r.lastMs.toNat
  | .srcPort => r.srcPort.toNat
  | .dstPort => r.dstPort.toNat
  | .tcpFlags => r.tcpFlags.toNat
  | .protocol => r.protocol.toNat
  | .tos => r.tos.toNat
  | .srcAs => r.srcAs.toNat
  | .dstAs => r.dstAs.toNat
  | .srcMask => r.srcMask.toNat
  | .dstMask => r.dstMask.toNat

/-- What a host read gives back: the value, or none where the target has no value to read (R35, R36). -/
def State.hostRead (s : State) : ReadTarget → Option Nat
  | .register r => s.registerValue r
  | .inbufByte a => (s.readByte a).map (·.toNat)
  | .recField i f => if i < s.recCount.toNat then (s.recs[i]?).map (·.fieldValue f) else none

/-- A host read changes no state (R36). A target with no value stops the model by name (log entry 8). -/
def hostReadAction (target : ReadTarget) (s : State) : Host.Outcome State Fault Refusal :=
  match s.hostRead target with
  | some _ => .next s
  | none =>
    match target with
    | .register _ => .refused .commandPortRead
    | .inbufByte _ => .fault .inbufAddress
    | .recField _ _ => .fault .noSuchRecord

/-- The RESET action: every piece of the block's state to its reset value; the host's further actions are the
host's own (spec/70_reset_and_hazards.md R260; log entry 1). -/
def State.resetAction (s : State) : State := { State.reset with host := s.host }

/-- `Execute(cmd)`: a legal word runs its command, every other word is IllegalCommand (R210). -/
def executeWord (cmd : Word) (s : State) : Host.Outcome State Fault Refusal :=
  match decode cmd with
  | .ok i => exec i s
  | .error _ => .next (s.illegalCommand cmd)

/-- One action of the host (R216). LOAD_INBUF of more than MAX_FRAME_LEN bytes and a direct register write have no
move (R23, R216; log entries 6 and 7). -/
def hostAct (action : HostAction) (s : State) : Host.Outcome State Fault Refusal :=
  match action with
  | .reset => .next s.resetAction
  | .loadInbuf bytes =>
    if bytes.length ≤ Config.maxFrameLen.toNat then .next (s.loadInbuf bytes) else .refused .frameTooLong
  | .command cmd => executeWord cmd s
  | .read target => hostReadAction target s
  | .writeRegister _ _ => .refused .registerWrite

/-- A step: the host's next action acts on the block; when the host takes no further action the state stays as it
is (R217; log entries 1 and 2). -/
def hostStep (s : State) : Host.Outcome State Fault Refusal :=
  match s.host with
  | [] => .next s
  | action :: rest => hostAct action { s with host := rest }

end Sys2Proof.Machine
end

