-- ==== Sys2Proof/Machine/Step.lean ====
section
/-! DEFINITION. The step of the machine, and how a command is placed where the next step takes it. -/

namespace Sys2Proof.Machine

/-- One step: the host's next action (spec/43_pipeline_and_control.md R210, R216, R217). -/
def step (s : State) : Host.Outcome State Fault Refusal := hostStep s

/-- `s` with the host about to write the `nbits` bits `w` (the bits above them 0) to the command port. The block
fetches nothing (spec/10_state.md R21); log entry 1. -/
def State.withFetchWord (s : State) (nbits w : Nat) : State :=
  { s with host := .command (tableWord nbits w) :: s.host }

end Sys2Proof.Machine
end

