-- ==== Sys2Proof/Machine/Assembler.lean ====
section
/-! DEFINITION. The statements of a host program and their text, one statement a line (spec/30_encoding.md R84).
Where R84 is brief about the text (capitals, blanks, the grouping of hex digits), log entry 9 says what is read. -/

namespace Sys2Proof.Machine

/-- A statement of a host program (R84). -/
inductive Statement where
  /-- A command mnemonic with its operand. -/
  | command (i : Instr)
  /-- `LOAD_INBUF <hex bytes>`. -/
  | loadInbuf (bytes : List Byte)
  /-- `RESET`. -/
  | reset
  /-- `WORD <value>`: a raw command word, legal or not. -/
  | word (value : Word)
  deriving DecidableEq, Repr

/-- The host action a statement stands for; a command statement is exactly one command word. -/
def Statement.action : Statement → HostAction
  | .command i => .command (encode i)
  | .loadInbuf bytes => .loadInbuf bytes
  | .reset => .reset
  | .word value => .command value

/-- `;` starts a comment. -/
def stripComment : List Char → List Char
  | [] => []
  | c :: rest => if c = ';' then [] else c :: stripComment rest

/-- The blank-separated words of a line; `word` holds the letters of the word being read, last first. -/
def splitWords (word : List Char) : List Char → List (List Char)
  | [] => if word = [] then [] else [word.reverse]
  | c :: rest =>
    if c = ' ' ∨ c = '\t' ∨ c = '\r' then
      if word = [] then splitWords [] rest else word.reverse :: splitWords [] rest
    else splitWords (c :: word) rest

/-- The digits of R84's numbers and hex bytes, each at the place of its value; a decimal number has the first ten. -/
def digitOrder : List Char := "0123456789ABCDEF".toList

/-- The value of a digit of a base: its place among the base's digits, small letters read as capitals (log entry 9). -/
def digitValue (base : Nat) (c : Char) : Option Nat := (digitOrder.take base).idxOf? c.toUpper

/-- A run of digits in a base, from the value read so far. -/
def digitsFrom (base acc : Nat) : List Char → Option Nat
  | [] => some acc
  | c :: rest => (digitValue base c).bind fun d => digitsFrom base (acc * base + d) rest

/-- A number below `limit`: decimal, or hexadecimal behind `0x`. -/
def number (limit : Nat) (text : List Char) : Option Nat :=
  let value := match text with
    | [] => none
    | ['0', 'x'] => none
    | '0' :: 'x' :: digits => digitsFrom 16 0 digits
    | digits => digitsFrom 10 0 digits
  match value with
  | some v => if v < limit then some v else none
  | none => none

/-- Hex bytes: the digits two by two. -/
def hexBytes : List Char → Option (List Byte)
  | [] => some []
  | [_] => none
  | h :: l :: rest =>
    match digitsFrom 16 0 [h, l], hexBytes rest with
    | some byte, some bytes => some (BitVec.ofNat 8 byte :: bytes)
    | _, _ => none

/-- The operation code of a mnemonic (R81). -/
def opOfMnemonic (name : List Char) : Option Byte :=
  if name = "CFG_SET_PORT".toList then some 0x01
  else if name = "CUR_BIND".toList then some 0x10
  else if name = "CUR_READ8".toList then some 0x11
  else if name = "CUR_READ16".toList then some 0x12
  else if name = "CUR_READ32".toList then some 0x13
  else if name = "CUR_SKIP".toList then some 0x14
  else if name = "NF_HEADER".toList then some 0x20
  else if name = "NF_RECORDS".toList then some 0x21
  else if name = "NF_DECODE".toList then some 0x22
  else if name = "PROCESS_FRAME".toList then some 0x30
  else if name = "ENTER_NETWORK".toList then some 0x31
  else if name = "ENTER_TRANSPORT".toList then some 0x32
  else none

/-- A command statement: `IMM` as written, or 0 when no operand is written; an operand only where the command
takes one (R84). -/
def commandStatement (op : Byte) (operands : List (List Char)) : Option Statement :=
  match operands with
  | [] => (opRow op 0).map fun row => .command row.2
  | [text] =>
    match number 65536 text with
    | some v =>
      match opRow op (BitVec.ofNat 16 v) with
      | some (true, i) => some (.command i)
      | _ => none
    | none => none
  | _ => none

/-- A statement from the words of its line. -/
def statementOfWords : List (List Char) → Option Statement
  | [] => none
  | name :: operands =>
    if name = "RESET".toList then (if operands = [] then some .reset else none)
    else if name = "LOAD_INBUF".toList then (hexBytes operands.flatten).map .loadInbuf
    else if name = "WORD".toList then
      match operands with
      | [text] => (number (2 ^ 32) text).map fun v => .word (BitVec.ofNat 32 v)
      | _ => none
    else
      match opOfMnemonic name with
      | some op => commandStatement op operands
      | none => none

/-- A host program, line by line: the host's actions in the order written, or none where a line is no statement.
A line that holds only blanks or a comment is no action. -/
def assemble : List (List Char) → Option (List HostAction)
  | [] => some []
  | line :: rest =>
    match splitWords [] (stripComment line), assemble rest with
    | [], some actions => some actions
    | words, some actions => (statementOfWords words).map fun st => st.action :: actions
    | _, none => none

end Sys2Proof.Machine
end

