-- ==== Sys2Proof/Safety.lean ====
section
/-! DEFINITION. What counts as a legal state and a safe step, and the terms the statements are written in. The
expected register values are written here as plain numbers and byte positions from the spec's tables, apart from the
meanings. -/

namespace Sys2Proof.Machine

/-! ## Legal states -/

/-- R25: `CUR_POS <= CUR_LEN <= INBUF_LEN` between commands. -/
structure State.CursorLegal (s : State) : Prop where
  posInSlice   : s.curPos.toNat ≤ s.curLen.toNat
  sliceInInbuf : s.curLen.toNat ≤ s.inbufLen.toNat

/-- R32: `REC_COUNT = |REC|`, and HDR_VALID = 0 only with every HDR_* register and BOOT_TIME_NS 0. -/
structure State.ResultLegal (s : State) : Prop where
  countIsLength : s.recCount.toNat = s.recs.length
  noHeaderZero  : s.hdrValid = false → s.hdr = NfHeader.zero ∧ s.bootTimeNs = 0

/-- A valid header is a version 5 header, BOOT_TIME_NS is its boot time, and REC holds either no record or as many
as it counts (from R153, R159, R160 and R211). -/
structure State.HeaderCoherent (s : State) : Prop where
  version5    : s.hdrValid = true → s.hdr.version = 5
  bootTimeOf  : s.hdrValid = true → s.bootTimeNs = bootTime s.hdr
  recordCount : s.hdrValid = true → s.recs.length = 0 ∨ s.recs.length = s.hdr.count.toNat

/-- The STATUS values that are ever written (R230). -/
def statusValues : List Byte := [0, 1, 2, 3, 4, 5, 6, 7, 15]

/-- The ERR_STAGE values that are ever written (R231). -/
def stageValues : List Byte := [0, 1, 2, 3, 4, 5]

/-- The status group holds listed values only (R230, R231), and no stage and no detail with STATUS = 0 (R28). -/
structure State.StatusLegal (s : State) : Prop where
  statusListed : s.status ∈ statusValues
  stageListed  : s.errStage ∈ stageValues
  okIsBlank    : s.status = 0 → s.errStage = 0 ∧ s.errA = 0 ∧ s.errB = 0 ∧ s.errC = 0

/-- INBUF's contents are in canonical form, nothing is listed outside INBUF, and INBUF is no larger than the host
can load (R22, R23, R65; log entry 3). -/
structure State.InbufLegal (s : State) : Prop where
  canonical : s.inbuf.wf = true
  inside    : s.inbuf.below s.inbufLen.toNat = true
  loadable  : s.inbufLen.toNat ≤ Config.maxFrameLen.toNat

/-- A legal state of the block between two actions. -/
structure State.Legal (s : State) : Prop where
  cursor : s.CursorLegal
  result : s.ResultLegal
  header : s.HeaderCoherent
  status : s.StatusLegal
  inbuf  : s.InbufLegal

/-- The host actions that have a move in a state (R23, R36, R216): everything but a LOAD_INBUF over MAX_FRAME_LEN, a
read of what has no value, and a direct register write. -/
def HostAction.HasMove (s : State) : HostAction → Prop
  | .reset => True
  | .command _ => True
  | .loadInbuf bytes => bytes.length ≤ Config.maxFrameLen.toNat
  | .read target => (s.hostRead target).isSome = true
  | .writeRegister _ _ => False

/-- A safe step: the machine goes on, to a legal state. -/
def State.SafeStep (s : State) : Prop := ∃ t, step s = .next t ∧ t.Legal

/-- Every register at R35's reset value and INBUF empty. -/
structure State.AtResetValues (s : State) : Prop where
  inbuf      : ∀ a, s.readByte a = none
  inbufLen   : s.inbufLen = 0
  cfgPort    : s.cfgPort = 9500
  status     : s.status = 0
  errStage   : s.errStage = 0
  errA       : s.errA = 0
  errB       : s.errB = 0
  errC       : s.errC = 0
  hdrValid   : s.hdrValid = false
  hdr        : s.hdr = ⟨0, 0, 0, 0, 0, 0, 0, 0, 0⟩
  bootTimeNs : s.bootTimeNs = 0
  recCount   : s.recCount = 0
  recs       : s.recs = []
  curLen     : s.curLen = 0
  curPos     : s.curPos = 0
  curData    : s.curData = 0

/-! ## Classes of commands -/

/-- The decode-class commands (spec/00_scope.md, glossary). -/
def decodeClass : Instr → Bool
  | .nfHeader | .nfRecords _ | .nfDecode | .processFrame | .enterNetwork | .enterTransport => true
  | .cfgSetPort _ | .curBind | .curRead8 | .curRead16 | .curRead32 | .curSkip _ => false

/-- The cursor commands (spec/40_cursor.md section 2). -/
def cursorClass : Instr → Bool
  | .curBind | .curRead8 | .curRead16 | .curRead32 | .curSkip _ => true
  | .cfgSetPort _ | .nfHeader | .nfRecords _ | .nfDecode | .processFrame | .enterNetwork | .enterTransport => false

/-- R234's table: the (STATUS, ERR_STAGE) pairs a command can leave, success among them. -/
def reportable : Instr → List (Byte × Byte)
  | .cfgSetPort _ | .curBind => [(0, 0)]
  | .curRead8 | .curRead16 | .curRead32 | .curSkip _ => [(0, 0), (1, 5)]
  | .nfHeader => [(0, 0), (2, 4), (3, 4)]
  | .nfRecords _ => [(0, 0), (4, 4)]
  | .nfDecode => [(0, 0), (2, 4), (3, 4), (4, 4)]
  | .enterTransport => [(0, 0), (1, 3), (7, 3), (2, 4), (3, 4), (4, 4)]
  | .enterNetwork => [(0, 0), (1, 2), (2, 2), (6, 2), (1, 3), (7, 3), (2, 4), (3, 4), (4, 4)]
  | .processFrame => [(0, 0), (1, 1), (5, 1), (1, 2), (2, 2), (6, 2), (1, 3), (7, 3), (2, 4), (3, 4), (4, 4)]

/-! ## Expected register values -/

/-- `s` with the five registers of the status group written. -/
def State.withStatus (s : State) (status errStage : Byte) (a b c : Nat) : State :=
  { s with status := status, errStage := errStage,
           errA := BitVec.ofNat 32 a, errB := BitVec.ofNat 32 b, errC := BitVec.ofNat 32 c }

/-- `s` with the decode result group written: a header and its boot time, or none (all of them 0), and the records
with their number. -/
def State.withResult (s : State) (h : Option (NfHeader × Quad)) (recs : List FlowRecord) : State :=
  { s with hdrValid := h.isSome
           hdr := (h.map Prod.fst).getD ⟨0, 0, 0, 0, 0, 0, 0, 0, 0⟩
           bootTimeNs := (h.map Prod.snd).getD 0
           recs := recs
           recCount := BitVec.ofNat 16 recs.length }

/-- What a decode-class command leaves when it fails: the error reported and an empty result group (R236). -/
def State.rejected (s : State) (status errStage : Byte) (a b c : Nat) : State :=
  (s.withStatus status errStage a b c).withResult none []

/-- What a decode-class command leaves when it succeeds (R211). -/
def State.decoded (s : State) (h : Option (NfHeader × Quad)) (recs : List FlowRecord) : State :=
  (s.withStatus 0 0 0 0 0).withResult h recs

/-- The byte at an INBUF address, as a number. -/
def Inbuf.u8 (m : Inbuf) (a : Nat) : Nat := (m.byteAt a).toNat

/-- The big-endian 16-bit value at an INBUF address (R60). -/
def Inbuf.u16 (m : Inbuf) (a : Nat) : Nat := m.u8 a * 256 + m.u8 (a + 1)

/-- The big-endian 32-bit value at an INBUF address (R60). -/
def Inbuf.u32 (m : Inbuf) (a : Nat) : Nat :=
  m.u8 a * 16777216 + m.u8 (a + 1) * 65536 + m.u8 (a + 2) * 256 + m.u8 (a + 3)

/-- The header whose 24 bytes start at address `p`, by R98's offsets. -/
def Inbuf.headerAt (m : Inbuf) (p : Nat) : NfHeader :=
  { version := BitVec.ofNat 16 (m.u16 p), count := BitVec.ofNat 16 (m.u16 (p + 2)),
    sysUptimeMs := BitVec.ofNat 32 (m.u32 (p + 4)), unixSecs := BitVec.ofNat 32 (m.u32 (p + 8)),
    unixNsecs := BitVec.ofNat 32 (m.u32 (p + 12)), flowSeq := BitVec.ofNat 32 (m.u32 (p + 16)),
    engineType := BitVec.ofNat 8 (m.u8 (p + 20)), engineId := BitVec.ofNat 8 (m.u8 (p + 21)),
    samplingInterval := BitVec.ofNat 16 (m.u16 (p + 22)) }

/-- The record whose 48 bytes start at address `p`, by R101's offsets. -/
def Inbuf.flowRecordAt (m : Inbuf) (p : Nat) : FlowRecord :=
  { srcAddr := BitVec.ofNat 32 (m.u32 p), dstAddr := BitVec.ofNat 32 (m.u32 (p + 4)),
    nextHop := BitVec.ofNat 32 (m.u32 (p + 8)),
    inputIf := BitVec.ofNat 16 (m.u16 (p + 12)), outputIf := BitVec.ofNat 16 (m.u16 (p + 14)),
    packetCount := BitVec.ofNat 32 (m.u32 (p + 16)), octetCount := BitVec.ofNat 32 (m.u32 (p + 20)),
    firstMs := BitVec.ofNat 32 (m.u32 (p + 24)), lastMs := BitVec.ofNat 32 (m.u32 (p + 28)),
    srcPort := BitVec.ofNat 16 (m.u16 (p + 32)), dstPort := BitVec.ofNat 16 (m.u16 (p + 34)),
    tcpFlags := BitVec.ofNat 8 (m.u8 (p + 37)), protocol := BitVec.ofNat 8 (m.u8 (p + 38)),
    tos := BitVec.ofNat 8 (m.u8 (p + 39)),
    srcAs := BitVec.ofNat 16 (m.u16 (p + 40)), dstAs := BitVec.ofNat 16 (m.u16 (p + 42)),
    srcMask := BitVec.ofNat 8 (m.u8 (p + 44)), dstMask := BitVec.ofNat 8 (m.u8 (p + 45)) }

/-- The first `count` records of the Netflow payload that starts at address `p`, in on-wire order (R69, R101). -/
def Inbuf.flowRecordsAt (m : Inbuf) (p count : Nat) : List FlowRecord :=
  (List.range count).map fun i => m.flowRecordAt (p + 24 + 48 * i)

/-- R152's table: offset and width of the first header field that does not fit a payload of `len` bytes. -/
def headerFieldCutAt (len : Nat) : Nat × Nat :=
  if len < 2 then (0, 2) else if len < 4 then (2, 2) else if len < 8 then (4, 4) else if len < 12 then (8, 4)
  else if len < 16 then (12, 4) else if len < 20 then (16, 4) else if len < 21 then (20, 1)
  else if len < 22 then (21, 1) else (22, 2)

/-- The first record that does not lie wholly inside a payload of `len` bytes (R157). -/
def recordCutAt (len : Nat) : Nat := if len < 72 then 0 else (len - 24) / 48

/-- Where a decode-class command finds the Netflow payload in INBUF, by the layout of R66. -/
def payloadStart (m : Inbuf) : Instr → Nat
  | .processFrame => 14 + 4 * (m.u8 14 % 16) + 8
  | .enterNetwork => 4 * (m.u8 0 % 16) + 8
  | .enterTransport => 8
  | .nfHeader | .nfRecords _ | .nfDecode => 0
  | .cfgSetPort _ | .curBind | .curRead8 | .curRead16 | .curRead32 | .curSkip _ => 0

/-- The padding byte and the two trailing bytes of a record, of a payload that starts at address `p`: record offsets
36, 46 and 47 (R102). -/
def SkippedByte (p a : Nat) : Prop :=
  p + 24 ≤ a ∧ ((a - (p + 24)) % 48 = 36 ∨ (a - (p + 24)) % 48 = 46 ∨ (a - (p + 24)) % 48 = 47)

/-! ## The order of the checks -/

/-- STATUS, ERR_STAGE, ERR_A, ERR_B and ERR_C of a rejection. -/
abbrev Rejection := Byte × Byte × Nat × Nat × Nat

/-- R240, step 6: what a Netflow payload of `len` bytes at address `p` is rejected with. -/
def payloadRejection (m : Inbuf) (p len : Nat) : Option Rejection :=
  if len < 24 then some (2, 4, (headerFieldCutAt len).1, (headerFieldCutAt len).2, len)
  else if m.u16 p ≠ 5 then some (3, 4, m.u16 p, 0, 0)
  else if len < 24 + 48 * m.u16 (p + 2) then some (4, 4, recordCutAt len, m.u16 (p + 2), len)
  else none

/-- R240, step 5: a UDP datagram. -/
def datagramRejection (m : Inbuf) (port p len : Nat) : Option Rejection :=
  if len < 8 then some (1, 3, 0, 8, len)
  else if m.u16 (p + 2) ≠ port then some (7, 3, m.u16 (p + 2), port, 0)
  else payloadRejection m (p + 8) (len - 8)

/-- R240, step 4: an IPv4 packet. -/
def packetRejection (m : Inbuf) (port p len : Nat) : Option Rejection :=
  if len < 20 then some (1, 2, 0, 20, len)
  else if m.u8 p % 16 < 5 then some (2, 2, m.u8 p % 16, 0, len)
  else if len < 4 * (m.u8 p % 16) then some (1, 2, 20, 4 * (m.u8 p % 16) - 20, len)
  else if m.u8 (p + 9) ≠ 17 then some (6, 2, m.u8 (p + 9), 0, 0)
  else datagramRejection m port (p + 4 * (m.u8 p % 16)) (len - 4 * (m.u8 p % 16))

/-- R240, step 3: a link-layer frame. -/
def frameRejection (m : Inbuf) (port p len : Nat) : Option Rejection :=
  if len < 14 then some (1, 1, 0, 14, len)
  else if m.u16 (p + 12) ≠ 0x0800 then some (5, 1, m.u16 (p + 12), 0, 0)
  else packetRejection m port (p + 14) (len - 14)

/-- `s` after a rejection: the error reported, the result group empty. -/
def State.rejectedWith (s : State) (r : Rejection) : State := s.rejected r.1 r.2.1 r.2.2.1 r.2.2.2.1 r.2.2.2.2

/-- `s` after the Netflow message at address `p` is decoded: its header, boot time and records (R159, R211). -/
def State.messageDecoded (s : State) (p : Nat) : State :=
  s.decoded (some (s.inbuf.headerAt p, bootTime (s.inbuf.headerAt p))) (s.inbuf.flowRecordsAt p (s.inbuf.u16 (p + 2)))

/-- The message at address `p` is whole and of version 5, with INBUF ending `len` bytes after `p` (R98, R100). -/
def MessageWhole (m : Inbuf) (p len : Nat) : Prop := m.u16 p = 5 ∧ 24 + 48 * m.u16 (p + 2) ≤ len

/-! ## Comparing two states -/

/-- The same INBUF, INBUF_LEN and CFG_PORT: all a decode-class command may depend on (R34). -/
structure SameInput (s t : State) : Prop where
  bytes    : ∀ a, s.readByte a = t.readByte a
  inbufLen : s.inbufLen = t.inbufLen
  cfgPort  : s.cfgPort = t.cfgPort

/-- The same status group and the same decode result group. -/
structure SameOutput (s t : State) : Prop where
  status     : s.status = t.status
  errStage   : s.errStage = t.errStage
  errA       : s.errA = t.errA
  errB       : s.errB = t.errB
  errC       : s.errC = t.errC
  hdrValid   : s.hdrValid = t.hdrValid
  hdr        : s.hdr = t.hdr
  bootTimeNs : s.bootTimeNs = t.bootTimeNs
  recCount   : s.recCount = t.recCount
  recs       : s.recs = t.recs

/-- Both runs of a command go on and leave the same status group and decode result group. -/
def SameOutcome (x y : Host.Outcome State Fault Refusal) : Prop :=
  ∃ s t, x = .next s ∧ y = .next t ∧ SameOutput s t

/-- INBUF and INBUF_LEN unchanged. -/
structure SameInbuf (s t : State) : Prop where
  bytes    : ∀ a, t.readByte a = s.readByte a
  inbufLen : t.inbufLen = s.inbufLen

/-- The decode result group unchanged. -/
structure SameResult (s t : State) : Prop where
  hdrValid   : t.hdrValid = s.hdrValid
  hdr        : t.hdr = s.hdr
  bootTimeNs : t.bootTimeNs = s.bootTimeNs
  recCount   : t.recCount = s.recCount
  recs       : t.recs = s.recs

/-- The user cursor unchanged. -/
structure SameCursor (s t : State) : Prop where
  curLen  : t.curLen = s.curLen
  curPos  : t.curPos = s.curPos
  curData : t.curData = s.curData

end Sys2Proof.Machine
end

