-- ==== Sys2Proof/Certificates/Slice0/Obligations.lean ====
section
/-! DEFINITION. The statements for the provers, from the numbered rules of spec/. A statement that rests on a choice
of the model names its log entry. -/

open Sys2Proof Sys2Proof.Machine

/-! ## Encoding (spec/30_encoding.md) -/

/-- R80 to R82: decoding the word of a command gives the command, whatever its operand. -/
def Obligations.EncodedCommandDecodesToItself : Prop :=
  ∀ i : Instr, decode (encode i) = .ok i

/-- R80 to R83: a word that decodes is the one word of its command. -/
def Obligations.DecodedWordIsItsCommandsWord : Prop :=
  ∀ (w : Word) (i : Instr), decode w = .ok i → encode i = w

/-- R83 and R235: a word that meets the three conditions runs its command; every other word is ILLEGAL_COMMAND with
the word in ERR_A, and changes nothing else. -/
def Obligations.WordRunsOrIsIllegal : Prop :=
  ∀ (w : Word) (s : State) (rest : List HostAction), s.host = .command w :: rest →
    let op := w.extractLsb' 0 8
    let legal := op ∈ [0x01#8, 0x10#8, 0x11#8, 0x12#8, 0x13#8, 0x14#8, 0x20#8, 0x21#8, 0x22#8, 0x30#8, 0x31#8, 0x32#8] ∧
      w.extractLsb' 8 8 = 0 ∧ (op ∉ [0x01#8, 0x14#8, 0x21#8] → w.extractLsb' 16 16 = 0)
    (legal → ∃ i, decode w = .ok i ∧ step s = exec i { s with host := rest }) ∧
    (¬ legal → step s = .next (State.withStatus { s with host := rest } 15 0 w.toNat 0 0))

/-- R84's example words and one word of every other command, written out from R80 and R81. -/
def Obligations.WordsOfTheSpecDecode : Prop :=
  decode 0x251C0001 = .ok (.cfgSetPort 9500) ∧ decode 0x00000010 = .ok .curBind ∧ decode 0x00000011 = .ok .curRead8 ∧
  decode 0x00000012 = .ok .curRead16 ∧ decode 0x00000013 = .ok .curRead32 ∧ decode 0x000C0014 = .ok (.curSkip 12) ∧
  decode 0x00000020 = .ok .nfHeader ∧ decode 0x00030021 = .ok (.nfRecords 3) ∧ decode 0x00000022 = .ok .nfDecode ∧
  decode 0x00000030 = .ok .processFrame ∧ decode 0x00000031 = .ok .enterNetwork ∧
  decode 0x00000032 = .ok .enterTransport ∧ decode 0x00000130 = .error (.reservedNonzero 1) ∧
  decode 0x00010030 = .error (.operandNonzero 1) ∧ decode 0x00000033 = .error (.unknownOp 0x33)

/-- R84's example lines stand for R84's example words. -/
def Obligations.LinesOfTheSpecAssemble : Prop :=
  assemble ["CFG_SET_PORT 9500".toList, "CUR_SKIP 12".toList, "PROCESS_FRAME".toList] =
    some [.command 0x251C0001, .command 0x000C0014, .command 0x00000030]

/-! ## The step and the host (spec/43_pipeline_and_control.md, spec/10_state.md, spec/70_reset_and_hazards.md) -/

/-- R210: when the word the host writes decodes to a command, the step is that command's meaning, the action taken off
the host's list (log entry 1) and nothing else around it. -/
def Obligations.StepRunsTheDecodedCommand : Prop :=
  ∀ (s : State) (w : Word) (rest : List HostAction) (i : Instr),
    s.host = .command w :: rest → decode w = .ok i → step s = exec i { s with host := rest }

/-- A command placed as the host's next word is what the next step runs (log entry 1). -/
def Obligations.PlacedCommandRunsNext : Prop :=
  ∀ (i : Instr) (s : State), step (s.withFetchWord 32 (encode i).toNat) = exec i s

/-- The model's choice of log entry 1, for R68's one total order: a step takes the host's first action and leaves the
others as they stand, whatever the action does. -/
def Obligations.HostActionsAreTakenInOrder : Prop :=
  ∀ s t : State, step s = .next t → t.host = s.host.tail

/-- R217 (log entry 2): when the host takes no further action, the state stays as it is. -/
def Obligations.IdleHostLeavesTheStateAlone : Prop :=
  ∀ s : State, s.host = [] → step s = .next s

/-- R260: RESET, and power-on, set every piece of state to its reset value. -/
def Obligations.ResetSetsEveryRegister : Prop :=
  State.reset.AtResetValues ∧
  ∀ (s : State) (rest : List HostAction), s.host = .reset :: rest → ∃ t, step s = .next t ∧ t.AtResetValues

/-- R22: LOAD_INBUF writes INBUF, INBUF_LEN, CUR_LEN and CUR_POS and nothing else; no command writes INBUF or INBUF_LEN,
and no other action of the host but RESET (R260) does. -/
def Obligations.LoadInbufReplacesInbuf : Prop :=
  (∀ (s : State) (bytes : List Byte) (rest : List HostAction),
    s.host = .loadInbuf bytes :: rest → bytes.length ≤ Config.maxFrameLen.toNat →
    ∃ t, step s = .next t ∧ (∀ a, t.readByte a = bytes[a]?) ∧ t.inbufLen.toNat = bytes.length ∧
      t = { s with host := rest, inbuf := t.inbuf, inbufLen := t.inbufLen, curLen := 0, curPos := 0 }) ∧
  (∀ (i : Instr) (s t : State), exec i s = .next t → SameInbuf s t) ∧
  (∀ s t : State, (∀ bytes, s.host.head? ≠ some (.loadInbuf bytes)) → s.host.head? ≠ some .reset →
    step s = .next t → SameInbuf s t)

/-- R23: LOAD_INBUF of more than MAX_FRAME_LEN bytes has no move; any other length, 0 included, is accepted. -/
def Obligations.LoadInbufOverTheLimitHasNoMove : Prop :=
  ∀ (s : State) (bytes : List Byte) (rest : List HostAction), s.host = .loadInbuf bytes :: rest →
    (Config.maxFrameLen.toNat < bytes.length → step s = .refused .frameTooLong) ∧
    (bytes.length ≤ Config.maxFrameLen.toNat → ∃ t, step s = .next t)

/-- R36: a host read of a register, of a byte of INBUF or of a record changes no state. -/
def Obligations.HostReadsChangeNothing : Prop :=
  ∀ (s : State) (target : ReadTarget) (rest : List HostAction), s.host = .read target :: rest →
    (match target with
      | .register r => r ≠ .commandPort
      | .inbufByte a => a < s.inbufLen.toNat
      | .recField i _ => i < s.recCount.toNat ∧ i < s.recs.length) →
    step s = .next { s with host := rest }

/-- The model's stops for host actions that have no move: a direct register write (log entry 7), and a read of the
write-only command port, of an INBUF address that does not exist or of a record that does not exist (log entry 8). -/
def Obligations.HostActionsWithNoMoveStop : Prop :=
  ∀ (s : State) (rest : List HostAction),
    (∀ r v, s.host = .writeRegister r v :: rest → step s = .refused .registerWrite) ∧
    (s.host = .read (.register .commandPort) :: rest → step s = .refused .commandPortRead) ∧
    (∀ a, s.host = .read (.inbufByte a) :: rest → s.inbufLen.toNat ≤ a → step s = .fault .inbufAddress) ∧
    (∀ i f, s.host = .read (.recField i f) :: rest → s.recCount.toNat ≤ i → step s = .fault .noSuchRecord)

/-! ## INBUF (spec/20_memory.md) -/

/-- R60 and R61: a read of several bytes is the read of the first ones followed by the read of the others, the first
being the more significant. -/
def Obligations.WideReadsAgreeWithNarrowReads : Prop :=
  ∀ (m : Inbuf) (a n k : Nat), m.memRead a (n + k) = m.memRead a n * 256 ^ k + m.memRead (a + n) k

/-- The model's form of INBUF (log entry 3): two canonical contents that hold the same bytes are equal. -/
def Obligations.CanonicalInbufIsDeterminedByItsBytes : Prop :=
  ∀ m m' : Inbuf, m.wf = true → m'.wf = true → (∀ a, m.byteAt a = m'.byteAt a) → m = m'

/-! ## The user cursor (spec/40_cursor.md) -/

/-- R135: CUR_BIND, its word and its effect. -/
def Obligations.BindCoversAllOfInbuf : Prop :=
  encode .curBind = 0x00000010 ∧
  ∀ s : State, exec .curBind s =
    .next (State.withStatus { s with curLen := s.inbufLen, curPos := 0, curData := 0 } 0 0 0 0 0)

/-- R137: CUR_READ8, its word, its result and its out-of-bounds report. -/
def Obligations.Read8ReadsOneByteOrReports : Prop :=
  encode .curRead8 = 0x00000011 ∧
  ∀ s : State,
    (∀ b, s.readByte s.curPos.toNat = some b → s.curPos.toNat + 1 ≤ s.curLen.toNat →
      exec .curRead8 s =
        .next (State.withStatus { s with curData := b.setWidth 32, curPos := s.curPos + 1 } 0 0 0 0 0)) ∧
    (s.curLen.toNat < s.curPos.toNat + 1 →
      exec .curRead8 s = .next (s.withStatus 1 5 s.curPos.toNat 1 s.curLen.toNat))

/-- R138: CUR_READ16, its word, its result and its out-of-bounds report. -/
def Obligations.Read16ReadsBigEndianOrReports : Prop :=
  encode .curRead16 = 0x00000012 ∧
  ∀ s : State,
    (∀ b0 b1, s.readByte s.curPos.toNat = some b0 → s.readByte (s.curPos.toNat + 1) = some b1 →
      s.curPos.toNat + 2 ≤ s.curLen.toNat →
      exec .curRead16 s = .next (State.withStatus
        { s with curData := BitVec.ofNat 32 (b0.toNat * 256 + b1.toNat), curPos := s.curPos + 2 } 0 0 0 0 0)) ∧
    (s.curLen.toNat < s.curPos.toNat + 2 →
      exec .curRead16 s = .next (s.withStatus 1 5 s.curPos.toNat 2 s.curLen.toNat))

/-- R139: CUR_READ32, its word, its result and its out-of-bounds report. -/
def Obligations.Read32ReadsBigEndianOrReports : Prop :=
  encode .curRead32 = 0x00000013 ∧
  ∀ s : State,
    (∀ b0 b1 b2 b3, s.readByte s.curPos.toNat = some b0 → s.readByte (s.curPos.toNat + 1) = some b1 →
      s.readByte (s.curPos.toNat + 2) = some b2 → s.readByte (s.curPos.toNat + 3) = some b3 →
      s.curPos.toNat + 4 ≤ s.curLen.toNat →
      exec .curRead32 s = .next (State.withStatus
        { s with
          curData := BitVec.ofNat 32 (b0.toNat * 16777216 + b1.toNat * 65536 + b2.toNat * 256 + b3.toNat),
          curPos := s.curPos + 4 } 0 0 0 0 0)) ∧
    (s.curLen.toNat < s.curPos.toNat + 4 →
      exec .curRead32 s = .next (s.withStatus 1 5 s.curPos.toNat 4 s.curLen.toNat))

/-- R140: CUR_SKIP N, its word, its result and its out-of-bounds report; CUR_DATA is unchanged. -/
def Obligations.SkipMovesInsideTheSliceOrReports : Prop :=
  (∀ n : Half, encode (.curSkip n) = n ++ 0x0014#16) ∧
  ∀ (s : State) (n : Half),
    (s.curPos.toNat + n.toNat ≤ s.curLen.toNat → ∃ pos : Word, pos.toNat = s.curPos.toNat + n.toNat ∧
      exec (.curSkip n) s = .next (State.withStatus { s with curPos := pos } 0 0 0 0 0)) ∧
    (s.curLen.toNat < s.curPos.toNat + n.toNat →
      exec (.curSkip n) s = .next (s.withStatus 1 5 s.curPos.toNat n.toNat s.curLen.toNat))

/-- The model's stop of log entry 4, in a state with CUR_LEN beyond INBUF_LEN, which R25 rules out: a cursor read
inside the slice that touches an address that does not exist faults. -/
def Obligations.CursorReadBeyondInbufFaults : Prop :=
  ∀ s : State,
    (s.curPos.toNat + 1 ≤ s.curLen.toNat → s.inbufLen.toNat < s.curPos.toNat + 1 →
      exec .curRead8 s = .fault .inbufAddress) ∧
    (s.curPos.toNat + 2 ≤ s.curLen.toNat → s.inbufLen.toNat < s.curPos.toNat + 2 →
      exec .curRead16 s = .fault .inbufAddress) ∧
    (s.curPos.toNat + 4 ≤ s.curLen.toNat → s.inbufLen.toNat < s.curPos.toNat + 4 →
      exec .curRead32 s = .fault .inbufAddress)

/-! ## Configuration (spec/43_pipeline_and_control.md) -/

/-- R215: CFG_SET_PORT, its word and its effect. -/
def Obligations.SetPortWritesThePort : Prop :=
  (∀ port : Half, encode (.cfgSetPort port) = port ++ 0x0001#16) ∧
  ∀ (s : State) (port : Half),
    exec (.cfgSetPort port) s = .next (State.withStatus { s with cfgPort := port } 0 0 0 0 0)

/-! ## The Netflow decoder (spec/41_netflow_decoder.md) -/

/-- R160, with R152 and R153: the word of NF_HEADER and its three outcomes. -/
def Obligations.NfHeaderDecodesOrNamesTheFault : Prop :=
  encode .nfHeader = 0x00000020 ∧
  ∀ s : State, let len := s.inbufLen.toNat
    (len < 24 →
      exec .nfHeader s = .next (s.rejected 2 4 (headerFieldCutAt len).1 (headerFieldCutAt len).2 len)) ∧
    (24 ≤ len → s.inbuf.u16 0 ≠ 5 → exec .nfHeader s = .next (s.rejected 3 4 (s.inbuf.u16 0) 0 0)) ∧
    (24 ≤ len → s.inbuf.u16 0 = 5 →
      exec .nfHeader s = .next (s.decoded (some (s.inbuf.headerAt 0, bootTime (s.inbuf.headerAt 0))) []))

/-- R156: BOOT_TIME_NS is the wall clock less the uptime, in nanoseconds; only the subtraction can wrap, modulo
2^64. -/
def Obligations.BootTimeIsWallClockLessUptime : Prop :=
  ∀ h : NfHeader,
    let wall := h.unixSecs.toNat * 1000000000 + h.unixNsecs.toNat
    let uptime := h.sysUptimeMs.toNat * 1000000
    (uptime ≤ wall → (bootTime h).toNat = wall - uptime) ∧
    (wall < uptime → (bootTime h).toNat = wall + 18446744073709551616 - uptime)

/-- R157: all the records in on-wire order when the window holds them, else TruncatedRecord with the index of the
first that does not lie wholly inside; a count of 0 always succeeds. -/
def Obligations.RecordsDecodeOrTheFirstCutIsNamed : Prop :=
  ∀ (m : Inbuf) (w : Window) (count : Nat),
    (count = 0 ∨ 24 + 48 * count ≤ w.len → decodeRecords m w count = .ok (m.flowRecordsAt w.base count)) ∧
    (count ≠ 0 → w.len < 24 + 48 * count →
      decodeRecords m w count =
        .error ⟨.netflow, .truncatedRecord, BitVec.ofNat 32 (recordCutAt w.len), BitVec.ofNat 32 count,
          BitVec.ofNat 32 w.len⟩)

/-- R158: the fields of a record are the bytes of R101's layout. -/
def Obligations.RecordFieldsFollowTheLayout : Prop :=
  ∀ (m : Inbuf) (w : Window) (off : Nat), recordAt m w off = m.flowRecordAt (w.base + off)

/-- R161: the word of NF_RECORDS and its two outcomes; no header is read or kept. -/
def Obligations.NfRecordsDecodesOrNamesTheCut : Prop :=
  (∀ count : Half, encode (.nfRecords count) = count ++ 0x0021#16) ∧
  ∀ (s : State) (count : Half),
    (count = 0 ∨ 24 + 48 * count.toNat ≤ s.inbufLen.toNat →
      exec (.nfRecords count) s = .next (s.decoded none (s.inbuf.flowRecordsAt 0 count.toNat))) ∧
    (count ≠ 0 → s.inbufLen.toNat < 24 + 48 * count.toNat →
      exec (.nfRecords count) s =
        .next (s.rejected 4 4 (recordCutAt s.inbufLen.toNat) count.toNat s.inbufLen.toNat))

/-- R159 and R162: a whole version 5 message at INBUF address 0 is decoded by NF_DECODE: header, boot time and every
record in on-wire order. -/
def Obligations.NfDecodeDecodesAWholeMessage : Prop :=
  ∀ s : State, MessageWhole s.inbuf 0 s.inbufLen.toNat → exec .nfDecode s = .next (s.messageDecoded 0)

/-- R159: the bytes behind the last record do not matter. A run that succeeds leaves the same status and result for
every INBUF that agrees with it up to the end of the last record and is at least that long. -/
def Obligations.TrailingBytesAreIgnored : Prop :=
  ∀ i ∈ [Instr.nfDecode, .enterTransport, .enterNetwork, .processFrame], ∀ s t u : State,
    let p := payloadStart s.inbuf i
    let msgEnd := p + 24 + 48 * s.inbuf.u16 (p + 2)
    exec i s = .next u → u.status = 0 → s.cfgPort = t.cfgPort → msgEnd ≤ t.inbufLen.toNat →
    (∀ a, a < msgEnd → s.readByte a = t.readByte a) → SameOutcome (exec i s) (exec i t)

/-- R102: the padding byte and the two trailing bytes of a record change no status and no result, for any
decode-class command. -/
def Obligations.PaddingBytesHaveNoEffect : Prop :=
  ∀ (i : Instr) (s t : State), decodeClass i = true → s.inbufLen = t.inbufLen → s.cfgPort = t.cfgPort →
    (∀ a, ¬ SkippedByte (payloadStart s.inbuf i) a → s.readByte a = t.readByte a) →
    SameOutcome (exec i s) (exec i t)

/-! ## The demultiplexers and the pipeline (spec/42_demux.md, spec/43_pipeline_and_control.md) -/

/-- R187: a UDP datagram in INBUF for the configured port, with a whole message behind its header, is decoded by
ENTER_TRANSPORT. -/
def Obligations.EnterTransportDecodesADatagram : Prop :=
  ∀ s : State, s.inbuf.u16 2 = s.cfgPort.toNat → 8 ≤ s.inbufLen.toNat →
    MessageWhole s.inbuf 8 (s.inbufLen.toNat - 8) → exec .enterTransport s = .next (s.messageDecoded 8)

/-- R186: an IPv4 packet in INBUF that holds such a datagram, options skipped, is decoded by ENTER_NETWORK. -/
def Obligations.EnterNetworkDecodesAPacket : Prop :=
  ∀ s : State, let hl := 4 * (s.inbuf.u8 0 % 16)
    20 ≤ hl → s.inbuf.u8 9 = 17 → s.inbuf.u16 (hl + 2) = s.cfgPort.toNat → hl + 8 ≤ s.inbufLen.toNat →
    MessageWhole s.inbuf (hl + 8) (s.inbufLen.toNat - (hl + 8)) →
    exec .enterNetwork s = .next (s.messageDecoded (hl + 8))

/-- R213, with the layout of R66: a frame in INBUF that holds such a packet is decoded by PROCESS_FRAME. -/
def Obligations.ProcessFrameDecodesAFrame : Prop :=
  ∀ s : State, let hl := 4 * (s.inbuf.u8 14 % 16)
    s.inbuf.u16 12 = 0x0800 → 20 ≤ hl → s.inbuf.u8 23 = 17 → s.inbuf.u16 (14 + hl + 2) = s.cfgPort.toNat →
    14 + hl + 8 ≤ s.inbufLen.toNat →
    MessageWhole s.inbuf (14 + hl + 8) (s.inbufLen.toNat - (14 + hl + 8)) →
    exec .processFrame s = .next (s.messageDecoded (14 + hl + 8))

/-- R240: the error reported is the first one raised, in the fixed order of the checks, with the detail words of R232,
for the four commands that run the chain or a part of it; an illegal word is ILLEGAL_COMMAND and nothing else is looked
at. -/
def Obligations.TheFirstErrorIsReported : Prop :=
  ∀ s : State, let m := s.inbuf; let port := s.cfgPort.toNat; let len := s.inbufLen.toNat
    (∀ r, payloadRejection m 0 len = some r → exec .nfDecode s = .next (s.rejectedWith r)) ∧
    (∀ r, datagramRejection m port 0 len = some r → exec .enterTransport s = .next (s.rejectedWith r)) ∧
    (∀ r, packetRejection m port 0 len = some r → exec .enterNetwork s = .next (s.rejectedWith r)) ∧
    (∀ r, frameRejection m port 0 len = some r → exec .processFrame s = .next (s.rejectedWith r)) ∧
    (∀ w, legalWord w = false → executeWord w s = .next (s.withStatus 15 0 w.toNat 0 0))

/-- R184: when a stage rejects a frame, the outcome depends only on INBUF_LEN, CFG_PORT and the bytes that stage and the
stages before it read. -/
def Obligations.ARejectedFrameIsNotReadFurther : Prop :=
  ∀ s t u : State, s.inbufLen = t.inbufLen → s.cfgPort = t.cfgPort → exec .processFrame s = .next u →
    let udp := 14 + 4 * (s.inbuf.u8 14 % 16)
    (u.errStage = 1 → (∀ a ∈ [12, 13], s.readByte a = t.readByte a) →
      SameOutcome (exec .processFrame s) (exec .processFrame t)) ∧
    (u.errStage = 2 → (∀ a ∈ [12, 13, 14, 23], s.readByte a = t.readByte a) →
      SameOutcome (exec .processFrame s) (exec .processFrame t)) ∧
    (u.errStage = 3 → (∀ a ∈ [12, 13, 14, 23, udp + 2, udp + 3], s.readByte a = t.readByte a) →
      SameOutcome (exec .processFrame s) (exec .processFrame t))

/-- R186's example: ENTER_NETWORK on a frame without its first 14 bytes writes the registers PROCESS_FRAME writes for
the whole frame, when the link stage passes it. -/
def Obligations.EnterNetworkMatchesProcessFrame : Prop :=
  ∀ s t : State, s.inbuf.u16 12 = 0x0800 → s.inbufLen.toNat = t.inbufLen.toNat + 14 →
    (∀ a, t.readByte a = s.readByte (a + 14)) → s.cfgPort = t.cfgPort →
    SameOutcome (exec .processFrame s) (exec .enterNetwork t)

/-- R187's example: ENTER_TRANSPORT on the UDP datagram of a packet that the network stage passes writes the registers
ENTER_NETWORK writes for the packet. -/
def Obligations.EnterTransportMatchesEnterNetwork : Prop :=
  ∀ s t : State, let hl := 4 * (s.inbuf.u8 0 % 16)
    20 ≤ hl → s.inbuf.u8 9 = 17 → s.inbufLen.toNat = t.inbufLen.toNat + hl →
    (∀ a, t.readByte a = s.readByte (a + hl)) → s.cfgPort = t.cfgPort →
    SameOutcome (exec .enterNetwork s) (exec .enterTransport t)

/-- R185: NF_DECODE on the payload of a datagram that the transport stage passes writes the registers ENTER_TRANSPORT
writes for the datagram. -/
def Obligations.NfDecodeMatchesEnterTransport : Prop :=
  ∀ s t : State, s.inbuf.u16 2 = s.cfgPort.toNat → s.inbufLen.toNat = t.inbufLen.toNat + 8 →
    (∀ a, t.readByte a = s.readByte (a + 8)) →
    SameOutcome (exec .enterTransport s) (exec .nfDecode t)

/-! ## What commands write and depend on -/

/-- R212: each command writes only the registers of its class, and an illegal word only the status group. -/
def Obligations.CommandsWriteOnlyTheirRegisters : Prop :=
  (∀ (i : Instr) (s t : State), exec i s = .next t →
    SameInbuf s t ∧ t.host = s.host ∧
    (decodeClass i = true → t.cfgPort = s.cfgPort ∧ SameCursor s t) ∧
    (cursorClass i = true → t.cfgPort = s.cfgPort ∧ SameResult s t) ∧
    (∀ port, i = .cfgSetPort port → SameResult s t ∧ SameCursor s t)) ∧
  (∀ (w : Word) (s t : State), legalWord w = false → executeWord w s = .next t →
    SameInbuf s t ∧ t.host = s.host ∧ t.cfgPort = s.cfgPort ∧ SameResult s t ∧ SameCursor s t)

/-- R234: the errors a command can report, with their stage tags. -/
def Obligations.CommandsReportOnlyTheirErrors : Prop :=
  (∀ (i : Instr) (s t : State), exec i s = .next t → (t.status, t.errStage) ∈ reportable i) ∧
  (∀ (w : Word) (s t : State), legalWord w = false → executeWord w s = .next t → (t.status, t.errStage) = (15, 0))

/-- R236: a decode-class command that fails reports its error, empties the result group and does nothing else. -/
def Obligations.AFailedDecodeLeavesNoResult : Prop :=
  ∀ (i : Instr) (s t : State), decodeClass i = true → exec i s = .next t → t.status ≠ 0 →
    ∃ (status stage : Byte) (a b c : Nat), t = s.rejected status stage a b c

/-- R244: whatever INBUF holds, every command word leads in one step to STATUS 0 or a code of R230, in every state that
meets R25. -/
def Obligations.EveryWordEndsInAListedStatus : Prop :=
  ∀ (w : Word) (s : State), s.CursorLegal → ∃ t, executeWord w s = .next t ∧ t.status ∈ statusValues

/-- R34: the outcome of a decode-class command is a function of INBUF, INBUF_LEN, the command and CFG_PORT. -/
def Obligations.DecodingDependsOnItsInputAlone : Prop :=
  ∀ (i : Instr) (s t : State), decodeClass i = true → SameInput s t → SameOutcome (exec i s) (exec i t)

/-- R29, R267 and R269: no command's outcome depends on the status group before it, nor a decode-class command's on the
decode result group before it. -/
def Obligations.EarlierOutcomesDoNotMatter : Prop :=
  (∀ (i : Instr) (s : State) (x y : Byte) (a b c : Nat), exec i (s.withStatus x y a b c) = exec i s) ∧
  (∀ (i : Instr) (s : State) (h : Option (NfHeader × Quad)) (recs : List FlowRecord), decodeClass i = true →
    exec i (s.withResult h recs) = exec i s)

/-- R64 and R238: a decode-class command issued again writes the same values again. -/
def Obligations.ARepeatedDecodeChangesNothing : Prop :=
  ∀ (i : Instr) (s t : State), decodeClass i = true → exec i s = .next t → exec i t = .next t

/-! ## Invariants -/

/-- R25: every step keeps CUR_POS <= CUR_LEN <= INBUF_LEN. -/
def Obligations.StepKeepsTheCursorInItsSlice : Prop :=
  ∀ s t : State, s.CursorLegal → step s = .next t → t.CursorLegal

/-- R32: every step keeps REC_COUNT = |REC|, and the header registers 0 while HDR_VALID = 0. -/
def Obligations.StepKeepsTheResultGroupConsistent : Prop :=
  ∀ s t : State, s.ResultLegal → step s = .next t → t.ResultLegal

/-- R25, R28, R30, R32, R230 and R231 together, with the canonical form of INBUF (log entry 3): every step keeps the
whole state legal. -/
def Obligations.StepKeepsTheStateLegal : Prop :=
  ∀ s t : State, s.Legal → step s = .next t → t.Legal

/-- The reset state is legal. -/
def Obligations.TheResetStateIsLegal : Prop := State.reset.Legal

/-- R217 and R244: from a legal state, every host action that has a move, and no action at all, leads to a legal state:
nothing the host may do stops the machine. -/
def Obligations.NoAllowedActionStopsTheMachine : Prop :=
  ∀ s : State, s.Legal → (∀ action rest, s.host = action :: rest → action.HasMove s) → s.SafeStep
end

