-- ==== Sys2Proof/Laws/Encoding.lean ====
section
/-! SUPPORT. The fields of a packed command word, and how the decoder and R83's conditions relate. -/

namespace Sys2Proof

theorem packWord_op (imm : Half) (op : Byte) : (packWord imm op).extractLsb' 0 8 = op := by
  apply BitVec.eq_of_getLsbD_eq
  intro k hk
  simp only [packWord, BitVec.getLsbD_extractLsb', BitVec.getLsbD_append]
  simp [hk]
  omega

theorem packWord_rsv (imm : Half) (op : Byte) : (packWord imm op).extractLsb' 8 8 = 0 := by
  apply BitVec.eq_of_getLsbD_eq
  intro k hk
  simp only [packWord, BitVec.getLsbD_extractLsb', BitVec.getLsbD_append]
  simp [hk]
  omega

theorem packWord_imm (imm : Half) (op : Byte) : (packWord imm op).extractLsb' 16 16 = imm := by
  apply BitVec.eq_of_getLsbD_eq
  intro k hk
  simp only [packWord, BitVec.getLsbD_extractLsb', BitVec.getLsbD_append]
  simp [hk]

/-- A word with RSV = 0 is packed from its two other fields. -/
theorem packWord_fields (w : Word) (h : w.extractLsb' 8 8 = 0) :
    packWord (w.extractLsb' 16 16) (w.extractLsb' 0 8) = w := by
  apply BitVec.eq_of_getLsbD_eq
  intro k hk
  have h' : ∀ j, j < 8 → w.getLsbD (8 + j) = false := by
    intro j hj
    have := congrArg (fun v => v.getLsbD j) h
    simpa [BitVec.getLsbD_extractLsb', hj] using this
  simp only [packWord, BitVec.getLsbD_extractLsb', BitVec.getLsbD_append]
  by_cases h1 : k < 8
  · simp [h1]
    omega
  · by_cases h2 : k < 16
    · have := h' (k - 8) (by omega)
      rw [show 8 + (k - 8) = k by omega] at this
      simp [this, h1]
      omega
    · have e : 16 + (k - (8 + 8)) = k := by omega
      have h3 : ¬ k < 8 + 8 := by omega
      have h4 : k - (8 + 8) < 16 := by omega
      simp only [h3, if_false, h4, decide_true, Bool.true_and, e]

/-- The table word of all 32 bits is the word. -/
theorem tableWord_toNat (w : Word) : tableWord 32 w.toNat = w := by
  apply BitVec.eq_of_toNat_eq
  simp only [tableWord, BitVec.toNat_ofNat, Nat.mod_mod]
  exact Nat.mod_eq_of_lt w.isLt

/-- A word that decodes meets the three conditions of R83. -/
theorem legalWord_of_decode {w : Word} {i : Instr} (h : decode w = .ok i) : legalWord w = true := by
  unfold decode at h
  split at h
  · cases h
  · rename_i hrow
    split at h
    · cases h
    · rename_i hrsv
      split at h
      · cases h
      · rename_i himm
        simp only [ne_eq, not_not] at hrsv
        unfold opRow at hrow
        split at hrow <;> simp only [Option.some.injEq, Prod.mk.injEq, reduceCtorEq] at hrow <;>
          obtain ⟨rfl, rfl⟩ := hrow <;>
          simp_all [legalWord, Command.legal, Command.ofWord, Command.opKnown, Command.rsvZero,
            Command.operandAllowed, opTable]

/-- A legal word decodes. -/
theorem decode_of_legal {w : Word} (h : legalWord w = true) : ∃ i, decode w = .ok i := by
  have hw : Command.ofWord w = ⟨w.extractLsb' 0 8, w.extractLsb' 8 8, w.extractLsb' 16 16⟩ := rfl
  rw [legalWord, hw] at h
  obtain ⟨⟨hop, hrsv⟩, himm⟩ : (((w.extractLsb' 0 8, true) ∈ opTable ∨ (w.extractLsb' 0 8, false) ∈ opTable) ∧
      w.extractLsb' 8 8 = 0) ∧ ((w.extractLsb' 0 8, false) ∉ opTable ∨ w.extractLsb' 16 16 = 0) := by
    simpa [Command.legal, Command.opKnown, Command.rsvZero, Command.operandAllowed] using h
  have hrow : ∃ takes i, opRow (w.extractLsb' 0 8) (w.extractLsb' 16 16) = some (takes, i) ∧
      (takes = false → w.extractLsb' 16 16 = 0) := by
    generalize w.extractLsb' 0 8 = op at hop himm ⊢
    simp only [opTable, List.mem_cons, Prod.mk.injEq, List.not_mem_nil, and_true, and_false, or_false, false_or,
      Bool.true_eq_false, Bool.false_eq_true] at hop
    rcases hop with (rfl | rfl | rfl) | rfl | rfl | rfl | rfl | rfl | rfl | rfl | rfl | rfl <;>
      exact ⟨_, _, rfl, by revert himm; simp [opTable]⟩
  obtain ⟨takes, i, hr, hi⟩ := hrow
  refine ⟨i, ?_⟩
  simp only [decode, hr, hrsv, ne_eq, not_true_eq_false, if_false]
  exact if_neg fun hc => hc.2 (hi hc.1)

/-- A word that the decoder refuses is illegal. -/
theorem legalWord_of_decode_error {w : Word} {e : Illegal} (h : decode w = .error e) : legalWord w = false := by
  cases hl : legalWord w with
  | false => rfl
  | true =>
    obtain ⟨i, hi⟩ := decode_of_legal hl
    rw [hi] at h
    cases h

/-- An illegal word is refused by the decoder. -/
theorem decode_of_illegal {w : Word} (h : legalWord w = false) : ∃ e, decode w = .error e := by
  cases hd : decode w with
  | error e => exact ⟨e, rfl⟩
  | ok i => simp [legalWord_of_decode hd] at h

end Sys2Proof
end

