-- ==== Sys2Proof/Laws/State.lean ====
section
/-! SUPPORT. The fields of State after each update: one lemma for each field and each update, so that no later proof
unfolds a record update. -/

namespace Sys2Proof.Machine

/-! ## statusOk -/

@[simp] theorem State.statusOk_host (s : State) : (s.statusOk).host = s.host := rfl
@[simp] theorem State.statusOk_inbuf (s : State) : (s.statusOk).inbuf = s.inbuf := rfl
@[simp] theorem State.statusOk_inbufLen (s : State) : (s.statusOk).inbufLen = s.inbufLen := rfl
@[simp] theorem State.statusOk_cfgPort (s : State) : (s.statusOk).cfgPort = s.cfgPort := rfl
@[simp] theorem State.statusOk_status (s : State) : (s.statusOk).status = 0 := rfl
@[simp] theorem State.statusOk_errStage (s : State) : (s.statusOk).errStage = 0 := rfl
@[simp] theorem State.statusOk_errA (s : State) : (s.statusOk).errA = 0 := rfl
@[simp] theorem State.statusOk_errB (s : State) : (s.statusOk).errB = 0 := rfl
@[simp] theorem State.statusOk_errC (s : State) : (s.statusOk).errC = 0 := rfl
@[simp] theorem State.statusOk_hdrValid (s : State) : (s.statusOk).hdrValid = s.hdrValid := rfl
@[simp] theorem State.statusOk_hdr (s : State) : (s.statusOk).hdr = s.hdr := rfl
@[simp] theorem State.statusOk_bootTimeNs (s : State) : (s.statusOk).bootTimeNs = s.bootTimeNs := rfl
@[simp] theorem State.statusOk_recCount (s : State) : (s.statusOk).recCount = s.recCount := rfl
@[simp] theorem State.statusOk_recs (s : State) : (s.statusOk).recs = s.recs := rfl
@[simp] theorem State.statusOk_curLen (s : State) : (s.statusOk).curLen = s.curLen := rfl
@[simp] theorem State.statusOk_curPos (s : State) : (s.statusOk).curPos = s.curPos := rfl
@[simp] theorem State.statusOk_curData (s : State) : (s.statusOk).curData = s.curData := rfl

/-! ## statusErr -/

@[simp] theorem State.statusErr_host (s : State) (e : PipelineError) : (s.statusErr e).host = s.host := rfl
@[simp] theorem State.statusErr_inbuf (s : State) (e : PipelineError) : (s.statusErr e).inbuf = s.inbuf := rfl
@[simp] theorem State.statusErr_inbufLen (s : State) (e : PipelineError) : (s.statusErr e).inbufLen = s.inbufLen := rfl
@[simp] theorem State.statusErr_cfgPort (s : State) (e : PipelineError) : (s.statusErr e).cfgPort = s.cfgPort := rfl
@[simp] theorem State.statusErr_status (s : State) (e : PipelineError) : (s.statusErr e).status = e.code.statusValue := rfl
@[simp] theorem State.statusErr_errStage (s : State) (e : PipelineError) : (s.statusErr e).errStage = e.stage.tagValue := rfl
@[simp] theorem State.statusErr_errA (s : State) (e : PipelineError) : (s.statusErr e).errA = e.a := rfl
@[simp] theorem State.statusErr_errB (s : State) (e : PipelineError) : (s.statusErr e).errB = e.b := rfl
@[simp] theorem State.statusErr_errC (s : State) (e : PipelineError) : (s.statusErr e).errC = e.c := rfl
@[simp] theorem State.statusErr_hdrValid (s : State) (e : PipelineError) : (s.statusErr e).hdrValid = s.hdrValid := rfl
@[simp] theorem State.statusErr_hdr (s : State) (e : PipelineError) : (s.statusErr e).hdr = s.hdr := rfl
@[simp] theorem State.statusErr_bootTimeNs (s : State) (e : PipelineError) : (s.statusErr e).bootTimeNs = s.bootTimeNs := rfl
@[simp] theorem State.statusErr_recCount (s : State) (e : PipelineError) : (s.statusErr e).recCount = s.recCount := rfl
@[simp] theorem State.statusErr_recs (s : State) (e : PipelineError) : (s.statusErr e).recs = s.recs := rfl
@[simp] theorem State.statusErr_curLen (s : State) (e : PipelineError) : (s.statusErr e).curLen = s.curLen := rfl
@[simp] theorem State.statusErr_curPos (s : State) (e : PipelineError) : (s.statusErr e).curPos = s.curPos := rfl
@[simp] theorem State.statusErr_curData (s : State) (e : PipelineError) : (s.statusErr e).curData = s.curData := rfl

/-! ## writeHeader_none -/

@[simp] theorem State.writeHeader_none_host (s : State) (boot : Quad) : (s.writeHeader none boot).host = s.host := rfl
@[simp] theorem State.writeHeader_none_inbuf (s : State) (boot : Quad) : (s.writeHeader none boot).inbuf = s.inbuf := rfl
@[simp] theorem State.writeHeader_none_inbufLen (s : State) (boot : Quad) : (s.writeHeader none boot).inbufLen = s.inbufLen := rfl
@[simp] theorem State.writeHeader_none_cfgPort (s : State) (boot : Quad) : (s.writeHeader none boot).cfgPort = s.cfgPort := rfl
@[simp] theorem State.writeHeader_none_status (s : State) (boot : Quad) : (s.writeHeader none boot).status = s.status := rfl
@[simp] theorem State.writeHeader_none_errStage (s : State) (boot : Quad) : (s.writeHeader none boot).errStage = s.errStage := rfl
@[simp] theorem State.writeHeader_none_errA (s : State) (boot : Quad) : (s.writeHeader none boot).errA = s.errA := rfl
@[simp] theorem State.writeHeader_none_errB (s : State) (boot : Quad) : (s.writeHeader none boot).errB = s.errB := rfl
@[simp] theorem State.writeHeader_none_errC (s : State) (boot : Quad) : (s.writeHeader none boot).errC = s.errC := rfl
@[simp] theorem State.writeHeader_none_hdrValid (s : State) (boot : Quad) : (s.writeHeader none boot).hdrValid = false := rfl
@[simp] theorem State.writeHeader_none_hdr (s : State) (boot : Quad) : (s.writeHeader none boot).hdr = NfHeader.zero := rfl
@[simp] theorem State.writeHeader_none_bootTimeNs (s : State) (boot : Quad) : (s.writeHeader none boot).bootTimeNs = 0 := rfl
@[simp] theorem State.writeHeader_none_recCount (s : State) (boot : Quad) : (s.writeHeader none boot).recCount = s.recCount := rfl
@[simp] theorem State.writeHeader_none_recs (s : State) (boot : Quad) : (s.writeHeader none boot).recs = s.recs := rfl
@[simp] theorem State.writeHeader_none_curLen (s : State) (boot : Quad) : (s.writeHeader none boot).curLen = s.curLen := rfl
@[simp] theorem State.writeHeader_none_curPos (s : State) (boot : Quad) : (s.writeHeader none boot).curPos = s.curPos := rfl
@[simp] theorem State.writeHeader_none_curData (s : State) (boot : Quad) : (s.writeHeader none boot).curData = s.curData := rfl

/-! ## writeHeader_some -/

@[simp] theorem State.writeHeader_some_host (s : State) (h : NfHeader) (boot : Quad) : (s.writeHeader (some h) boot).host = s.host := rfl
@[simp] theorem State.writeHeader_some_inbuf (s : State) (h : NfHeader) (boot : Quad) : (s.writeHeader (some h) boot).inbuf = s.inbuf := rfl
@[simp] theorem State.writeHeader_some_inbufLen (s : State) (h : NfHeader) (boot : Quad) : (s.writeHeader (some h) boot).inbufLen = s.inbufLen := rfl
@[simp] theorem State.writeHeader_some_cfgPort (s : State) (h : NfHeader) (boot : Quad) : (s.writeHeader (some h) boot).cfgPort = s.cfgPort := rfl
@[simp] theorem State.writeHeader_some_status (s : State) (h : NfHeader) (boot : Quad) : (s.writeHeader (some h) boot).status = s.status := rfl
@[simp] theorem State.writeHeader_some_errStage (s : State) (h : NfHeader) (boot : Quad) : (s.writeHeader (some h) boot).errStage = s.errStage := rfl
@[simp] theorem State.writeHeader_some_errA (s : State) (h : NfHeader) (boot : Quad) : (s.writeHeader (some h) boot).errA = s.errA := rfl
@[simp] theorem State.writeHeader_some_errB (s : State) (h : NfHeader) (boot : Quad) : (s.writeHeader (some h) boot).errB = s.errB := rfl
@[simp] theorem State.writeHeader_some_errC (s : State) (h : NfHeader) (boot : Quad) : (s.writeHeader (some h) boot).errC = s.errC := rfl
@[simp] theorem State.writeHeader_some_hdrValid (s : State) (h : NfHeader) (boot : Quad) : (s.writeHeader (some h) boot).hdrValid = true := rfl
@[simp] theorem State.writeHeader_some_hdr (s : State) (h : NfHeader) (boot : Quad) : (s.writeHeader (some h) boot).hdr = h := rfl
@[simp] theorem State.writeHeader_some_bootTimeNs (s : State) (h : NfHeader) (boot : Quad) : (s.writeHeader (some h) boot).bootTimeNs = boot := rfl
@[simp] theorem State.writeHeader_some_recCount (s : State) (h : NfHeader) (boot : Quad) : (s.writeHeader (some h) boot).recCount = s.recCount := rfl
@[simp] theorem State.writeHeader_some_recs (s : State) (h : NfHeader) (boot : Quad) : (s.writeHeader (some h) boot).recs = s.recs := rfl
@[simp] theorem State.writeHeader_some_curLen (s : State) (h : NfHeader) (boot : Quad) : (s.writeHeader (some h) boot).curLen = s.curLen := rfl
@[simp] theorem State.writeHeader_some_curPos (s : State) (h : NfHeader) (boot : Quad) : (s.writeHeader (some h) boot).curPos = s.curPos := rfl
@[simp] theorem State.writeHeader_some_curData (s : State) (h : NfHeader) (boot : Quad) : (s.writeHeader (some h) boot).curData = s.curData := rfl

/-! ## writeRecords -/

@[simp] theorem State.writeRecords_host (s : State) (recs : List FlowRecord) : (s.writeRecords recs).host = s.host := rfl
@[simp] theorem State.writeRecords_inbuf (s : State) (recs : List FlowRecord) : (s.writeRecords recs).inbuf = s.inbuf := rfl
@[simp] theorem State.writeRecords_inbufLen (s : State) (recs : List FlowRecord) : (s.writeRecords recs).inbufLen = s.inbufLen := rfl
@[simp] theorem State.writeRecords_cfgPort (s : State) (recs : List FlowRecord) : (s.writeRecords recs).cfgPort = s.cfgPort := rfl
@[simp] theorem State.writeRecords_status (s : State) (recs : List FlowRecord) : (s.writeRecords recs).status = s.status := rfl
@[simp] theorem State.writeRecords_errStage (s : State) (recs : List FlowRecord) : (s.writeRecords recs).errStage = s.errStage := rfl
@[simp] theorem State.writeRecords_errA (s : State) (recs : List FlowRecord) : (s.writeRecords recs).errA = s.errA := rfl
@[simp] theorem State.writeRecords_errB (s : State) (recs : List FlowRecord) : (s.writeRecords recs).errB = s.errB := rfl
@[simp] theorem State.writeRecords_errC (s : State) (recs : List FlowRecord) : (s.writeRecords recs).errC = s.errC := rfl
@[simp] theorem State.writeRecords_hdrValid (s : State) (recs : List FlowRecord) : (s.writeRecords recs).hdrValid = s.hdrValid := rfl
@[simp] theorem State.writeRecords_hdr (s : State) (recs : List FlowRecord) : (s.writeRecords recs).hdr = s.hdr := rfl
@[simp] theorem State.writeRecords_bootTimeNs (s : State) (recs : List FlowRecord) : (s.writeRecords recs).bootTimeNs = s.bootTimeNs := rfl
@[simp] theorem State.writeRecords_recCount (s : State) (recs : List FlowRecord) : (s.writeRecords recs).recCount = BitVec.ofNat 16 recs.length := rfl
@[simp] theorem State.writeRecords_recs (s : State) (recs : List FlowRecord) : (s.writeRecords recs).recs = recs := rfl
@[simp] theorem State.writeRecords_curLen (s : State) (recs : List FlowRecord) : (s.writeRecords recs).curLen = s.curLen := rfl
@[simp] theorem State.writeRecords_curPos (s : State) (recs : List FlowRecord) : (s.writeRecords recs).curPos = s.curPos := rfl
@[simp] theorem State.writeRecords_curData (s : State) (recs : List FlowRecord) : (s.writeRecords recs).curData = s.curData := rfl

/-! ## commitErr -/

@[simp] theorem State.commitErr_host (s : State) (e : PipelineError) : (s.commitErr e).host = s.host := rfl
@[simp] theorem State.commitErr_inbuf (s : State) (e : PipelineError) : (s.commitErr e).inbuf = s.inbuf := rfl
@[simp] theorem State.commitErr_inbufLen (s : State) (e : PipelineError) : (s.commitErr e).inbufLen = s.inbufLen := rfl
@[simp] theorem State.commitErr_cfgPort (s : State) (e : PipelineError) : (s.commitErr e).cfgPort = s.cfgPort := rfl
@[simp] theorem State.commitErr_status (s : State) (e : PipelineError) : (s.commitErr e).status = e.code.statusValue := rfl
@[simp] theorem State.commitErr_errStage (s : State) (e : PipelineError) : (s.commitErr e).errStage = e.stage.tagValue := rfl
@[simp] theorem State.commitErr_errA (s : State) (e : PipelineError) : (s.commitErr e).errA = e.a := rfl
@[simp] theorem State.commitErr_errB (s : State) (e : PipelineError) : (s.commitErr e).errB = e.b := rfl
@[simp] theorem State.commitErr_errC (s : State) (e : PipelineError) : (s.commitErr e).errC = e.c := rfl
@[simp] theorem State.commitErr_hdrValid (s : State) (e : PipelineError) : (s.commitErr e).hdrValid = false := rfl
@[simp] theorem State.commitErr_hdr (s : State) (e : PipelineError) : (s.commitErr e).hdr = NfHeader.zero := rfl
@[simp] theorem State.commitErr_bootTimeNs (s : State) (e : PipelineError) : (s.commitErr e).bootTimeNs = 0 := rfl
@[simp] theorem State.commitErr_recCount (s : State) (e : PipelineError) : (s.commitErr e).recCount = 0 := rfl
@[simp] theorem State.commitErr_recs (s : State) (e : PipelineError) : (s.commitErr e).recs = [] := rfl
@[simp] theorem State.commitErr_curLen (s : State) (e : PipelineError) : (s.commitErr e).curLen = s.curLen := rfl
@[simp] theorem State.commitErr_curPos (s : State) (e : PipelineError) : (s.commitErr e).curPos = s.curPos := rfl
@[simp] theorem State.commitErr_curData (s : State) (e : PipelineError) : (s.commitErr e).curData = s.curData := rfl

/-! ## commitOk_none -/

@[simp] theorem State.commitOk_none_host (s : State) (boot : Quad) (recs : List FlowRecord) : (s.commitOk ⟨none, boot, recs⟩).host = s.host := rfl
@[simp] theorem State.commitOk_none_inbuf (s : State) (boot : Quad) (recs : List FlowRecord) : (s.commitOk ⟨none, boot, recs⟩).inbuf = s.inbuf := rfl
@[simp] theorem State.commitOk_none_inbufLen (s : State) (boot : Quad) (recs : List FlowRecord) : (s.commitOk ⟨none, boot, recs⟩).inbufLen = s.inbufLen := rfl
@[simp] theorem State.commitOk_none_cfgPort (s : State) (boot : Quad) (recs : List FlowRecord) : (s.commitOk ⟨none, boot, recs⟩).cfgPort = s.cfgPort := rfl
@[simp] theorem State.commitOk_none_status (s : State) (boot : Quad) (recs : List FlowRecord) : (s.commitOk ⟨none, boot, recs⟩).status = 0 := rfl
@[simp] theorem State.commitOk_none_errStage (s : State) (boot : Quad) (recs : List FlowRecord) : (s.commitOk ⟨none, boot, recs⟩).errStage = 0 := rfl
@[simp] theorem State.commitOk_none_errA (s : State) (boot : Quad) (recs : List FlowRecord) : (s.commitOk ⟨none, boot, recs⟩).errA = 0 := rfl
@[simp] theorem State.commitOk_none_errB (s : State) (boot : Quad) (recs : List FlowRecord) : (s.commitOk ⟨none, boot, recs⟩).errB = 0 := rfl
@[simp] theorem State.commitOk_none_errC (s : State) (boot : Quad) (recs : List FlowRecord) : (s.commitOk ⟨none, boot, recs⟩).errC = 0 := rfl
@[simp] theorem State.commitOk_none_hdrValid (s : State) (boot : Quad) (recs : List FlowRecord) : (s.commitOk ⟨none, boot, recs⟩).hdrValid = false := rfl
@[simp] theorem State.commitOk_none_hdr (s : State) (boot : Quad) (recs : List FlowRecord) : (s.commitOk ⟨none, boot, recs⟩).hdr = NfHeader.zero := rfl
@[simp] theorem State.commitOk_none_bootTimeNs (s : State) (boot : Quad) (recs : List FlowRecord) : (s.commitOk ⟨none, boot, recs⟩).bootTimeNs = 0 := rfl
@[simp] theorem State.commitOk_none_recCount (s : State) (boot : Quad) (recs : List FlowRecord) : (s.commitOk ⟨none, boot, recs⟩).recCount = BitVec.ofNat 16 recs.length := rfl
@[simp] theorem State.commitOk_none_recs (s : State) (boot : Quad) (recs : List FlowRecord) : (s.commitOk ⟨none, boot, recs⟩).recs = recs := rfl
@[simp] theorem State.commitOk_none_curLen (s : State) (boot : Quad) (recs : List FlowRecord) : (s.commitOk ⟨none, boot, recs⟩).curLen = s.curLen := rfl
@[simp] theorem State.commitOk_none_curPos (s : State) (boot : Quad) (recs : List FlowRecord) : (s.commitOk ⟨none, boot, recs⟩).curPos = s.curPos := rfl
@[simp] theorem State.commitOk_none_curData (s : State) (boot : Quad) (recs : List FlowRecord) : (s.commitOk ⟨none, boot, recs⟩).curData = s.curData := rfl

/-! ## commitOk_some -/

@[simp] theorem State.commitOk_some_host (s : State) (h : NfHeader) (boot : Quad) (recs : List FlowRecord) : (s.commitOk ⟨some h, boot, recs⟩).host = s.host := rfl
@[simp] theorem State.commitOk_some_inbuf (s : State) (h : NfHeader) (boot : Quad) (recs : List FlowRecord) : (s.commitOk ⟨some h, boot, recs⟩).inbuf = s.inbuf := rfl
@[simp] theorem State.commitOk_some_inbufLen (s : State) (h : NfHeader) (boot : Quad) (recs : List FlowRecord) : (s.commitOk ⟨some h, boot, recs⟩).inbufLen = s.inbufLen := rfl
@[simp] theorem State.commitOk_some_cfgPort (s : State) (h : NfHeader) (boot : Quad) (recs : List FlowRecord) : (s.commitOk ⟨some h, boot, recs⟩).cfgPort = s.cfgPort := rfl
@[simp] theorem State.commitOk_some_status (s : State) (h : NfHeader) (boot : Quad) (recs : List FlowRecord) : (s.commitOk ⟨some h, boot, recs⟩).status = 0 := rfl
@[simp] theorem State.commitOk_some_errStage (s : State) (h : NfHeader) (boot : Quad) (recs : List FlowRecord) : (s.commitOk ⟨some h, boot, recs⟩).errStage = 0 := rfl
@[simp] theorem State.commitOk_some_errA (s : State) (h : NfHeader) (boot : Quad) (recs : List FlowRecord) : (s.commitOk ⟨some h, boot, recs⟩).errA = 0 := rfl
@[simp] theorem State.commitOk_some_errB (s : State) (h : NfHeader) (boot : Quad) (recs : List FlowRecord) : (s.commitOk ⟨some h, boot, recs⟩).errB = 0 := rfl
@[simp] theorem State.commitOk_some_errC (s : State) (h : NfHeader) (boot : Quad) (recs : List FlowRecord) : (s.commitOk ⟨some h, boot, recs⟩).errC = 0 := rfl
@[simp] theorem State.commitOk_some_hdrValid (s : State) (h : NfHeader) (boot : Quad) (recs : List FlowRecord) : (s.commitOk ⟨some h, boot, recs⟩).hdrValid = true := rfl
@[simp] theorem State.commitOk_some_hdr (s : State) (h : NfHeader) (boot : Quad) (recs : List FlowRecord) : (s.commitOk ⟨some h, boot, recs⟩).hdr = h := rfl
@[simp] theorem State.commitOk_some_bootTimeNs (s : State) (h : NfHeader) (boot : Quad) (recs : List FlowRecord) : (s.commitOk ⟨some h, boot, recs⟩).bootTimeNs = boot := rfl
@[simp] theorem State.commitOk_some_recCount (s : State) (h : NfHeader) (boot : Quad) (recs : List FlowRecord) : (s.commitOk ⟨some h, boot, recs⟩).recCount = BitVec.ofNat 16 recs.length := rfl
@[simp] theorem State.commitOk_some_recs (s : State) (h : NfHeader) (boot : Quad) (recs : List FlowRecord) : (s.commitOk ⟨some h, boot, recs⟩).recs = recs := rfl
@[simp] theorem State.commitOk_some_curLen (s : State) (h : NfHeader) (boot : Quad) (recs : List FlowRecord) : (s.commitOk ⟨some h, boot, recs⟩).curLen = s.curLen := rfl
@[simp] theorem State.commitOk_some_curPos (s : State) (h : NfHeader) (boot : Quad) (recs : List FlowRecord) : (s.commitOk ⟨some h, boot, recs⟩).curPos = s.curPos := rfl
@[simp] theorem State.commitOk_some_curData (s : State) (h : NfHeader) (boot : Quad) (recs : List FlowRecord) : (s.commitOk ⟨some h, boot, recs⟩).curData = s.curData := rfl

/-! ## illegalCommand -/

@[simp] theorem State.illegalCommand_host (s : State) (cmd : Word) : (s.illegalCommand cmd).host = s.host := rfl
@[simp] theorem State.illegalCommand_inbuf (s : State) (cmd : Word) : (s.illegalCommand cmd).inbuf = s.inbuf := rfl
@[simp] theorem State.illegalCommand_inbufLen (s : State) (cmd : Word) : (s.illegalCommand cmd).inbufLen = s.inbufLen := rfl
@[simp] theorem State.illegalCommand_cfgPort (s : State) (cmd : Word) : (s.illegalCommand cmd).cfgPort = s.cfgPort := rfl
@[simp] theorem State.illegalCommand_status (s : State) (cmd : Word) : (s.illegalCommand cmd).status = 15 := rfl
@[simp] theorem State.illegalCommand_errStage (s : State) (cmd : Word) : (s.illegalCommand cmd).errStage = 0 := rfl
@[simp] theorem State.illegalCommand_errA (s : State) (cmd : Word) : (s.illegalCommand cmd).errA = cmd := rfl
@[simp] theorem State.illegalCommand_errB (s : State) (cmd : Word) : (s.illegalCommand cmd).errB = 0 := rfl
@[simp] theorem State.illegalCommand_errC (s : State) (cmd : Word) : (s.illegalCommand cmd).errC = 0 := rfl
@[simp] theorem State.illegalCommand_hdrValid (s : State) (cmd : Word) : (s.illegalCommand cmd).hdrValid = s.hdrValid := rfl
@[simp] theorem State.illegalCommand_hdr (s : State) (cmd : Word) : (s.illegalCommand cmd).hdr = s.hdr := rfl
@[simp] theorem State.illegalCommand_bootTimeNs (s : State) (cmd : Word) : (s.illegalCommand cmd).bootTimeNs = s.bootTimeNs := rfl
@[simp] theorem State.illegalCommand_recCount (s : State) (cmd : Word) : (s.illegalCommand cmd).recCount = s.recCount := rfl
@[simp] theorem State.illegalCommand_recs (s : State) (cmd : Word) : (s.illegalCommand cmd).recs = s.recs := rfl
@[simp] theorem State.illegalCommand_curLen (s : State) (cmd : Word) : (s.illegalCommand cmd).curLen = s.curLen := rfl
@[simp] theorem State.illegalCommand_curPos (s : State) (cmd : Word) : (s.illegalCommand cmd).curPos = s.curPos := rfl
@[simp] theorem State.illegalCommand_curData (s : State) (cmd : Word) : (s.illegalCommand cmd).curData = s.curData := rfl

/-! ## loadInbuf -/

@[simp] theorem State.loadInbuf_host (s : State) (bytes : List Byte) : (s.loadInbuf bytes).host = s.host := rfl
@[simp] theorem State.loadInbuf_inbuf (s : State) (bytes : List Byte) : (s.loadInbuf bytes).inbuf = Inbuf.ofBytes bytes := rfl
@[simp] theorem State.loadInbuf_inbufLen (s : State) (bytes : List Byte) : (s.loadInbuf bytes).inbufLen = BitVec.ofNat 32 bytes.length := rfl
@[simp] theorem State.loadInbuf_cfgPort (s : State) (bytes : List Byte) : (s.loadInbuf bytes).cfgPort = s.cfgPort := rfl
@[simp] theorem State.loadInbuf_status (s : State) (bytes : List Byte) : (s.loadInbuf bytes).status = s.status := rfl
@[simp] theorem State.loadInbuf_errStage (s : State) (bytes : List Byte) : (s.loadInbuf bytes).errStage = s.errStage := rfl
@[simp] theorem State.loadInbuf_errA (s : State) (bytes : List Byte) : (s.loadInbuf bytes).errA = s.errA := rfl
@[simp] theorem State.loadInbuf_errB (s : State) (bytes : List Byte) : (s.loadInbuf bytes).errB = s.errB := rfl
@[simp] theorem State.loadInbuf_errC (s : State) (bytes : List Byte) : (s.loadInbuf bytes).errC = s.errC := rfl
@[simp] theorem State.loadInbuf_hdrValid (s : State) (bytes : List Byte) : (s.loadInbuf bytes).hdrValid = s.hdrValid := rfl
@[simp] theorem State.loadInbuf_hdr (s : State) (bytes : List Byte) : (s.loadInbuf bytes).hdr = s.hdr := rfl
@[simp] theorem State.loadInbuf_bootTimeNs (s : State) (bytes : List Byte) : (s.loadInbuf bytes).bootTimeNs = s.bootTimeNs := rfl
@[simp] theorem State.loadInbuf_recCount (s : State) (bytes : List Byte) : (s.loadInbuf bytes).recCount = s.recCount := rfl
@[simp] theorem State.loadInbuf_recs (s : State) (bytes : List Byte) : (s.loadInbuf bytes).recs = s.recs := rfl
@[simp] theorem State.loadInbuf_curLen (s : State) (bytes : List Byte) : (s.loadInbuf bytes).curLen = 0 := rfl
@[simp] theorem State.loadInbuf_curPos (s : State) (bytes : List Byte) : (s.loadInbuf bytes).curPos = 0 := rfl
@[simp] theorem State.loadInbuf_curData (s : State) (bytes : List Byte) : (s.loadInbuf bytes).curData = s.curData := rfl

/-! ## withStatus -/

@[simp] theorem State.withStatus_host (s : State) (x y : Byte) (a b c : Nat) : (s.withStatus x y a b c).host = s.host := rfl
@[simp] theorem State.withStatus_inbuf (s : State) (x y : Byte) (a b c : Nat) : (s.withStatus x y a b c).inbuf = s.inbuf := rfl
@[simp] theorem State.withStatus_inbufLen (s : State) (x y : Byte) (a b c : Nat) : (s.withStatus x y a b c).inbufLen = s.inbufLen := rfl
@[simp] theorem State.withStatus_cfgPort (s : State) (x y : Byte) (a b c : Nat) : (s.withStatus x y a b c).cfgPort = s.cfgPort := rfl
@[simp] theorem State.withStatus_status (s : State) (x y : Byte) (a b c : Nat) : (s.withStatus x y a b c).status = x := rfl
@[simp] theorem State.withStatus_errStage (s : State) (x y : Byte) (a b c : Nat) : (s.withStatus x y a b c).errStage = y := rfl
@[simp] theorem State.withStatus_errA (s : State) (x y : Byte) (a b c : Nat) : (s.withStatus x y a b c).errA = BitVec.ofNat 32 a := rfl
@[simp] theorem State.withStatus_errB (s : State) (x y : Byte) (a b c : Nat) : (s.withStatus x y a b c).errB = BitVec.ofNat 32 b := rfl
@[simp] theorem State.withStatus_errC (s : State) (x y : Byte) (a b c : Nat) : (s.withStatus x y a b c).errC = BitVec.ofNat 32 c := rfl
@[simp] theorem State.withStatus_hdrValid (s : State) (x y : Byte) (a b c : Nat) : (s.withStatus x y a b c).hdrValid = s.hdrValid := rfl
@[simp] theorem State.withStatus_hdr (s : State) (x y : Byte) (a b c : Nat) : (s.withStatus x y a b c).hdr = s.hdr := rfl
@[simp] theorem State.withStatus_bootTimeNs (s : State) (x y : Byte) (a b c : Nat) : (s.withStatus x y a b c).bootTimeNs = s.bootTimeNs := rfl
@[simp] theorem State.withStatus_recCount (s : State) (x y : Byte) (a b c : Nat) : (s.withStatus x y a b c).recCount = s.recCount := rfl
@[simp] theorem State.withStatus_recs (s : State) (x y : Byte) (a b c : Nat) : (s.withStatus x y a b c).recs = s.recs := rfl
@[simp] theorem State.withStatus_curLen (s : State) (x y : Byte) (a b c : Nat) : (s.withStatus x y a b c).curLen = s.curLen := rfl
@[simp] theorem State.withStatus_curPos (s : State) (x y : Byte) (a b c : Nat) : (s.withStatus x y a b c).curPos = s.curPos := rfl
@[simp] theorem State.withStatus_curData (s : State) (x y : Byte) (a b c : Nat) : (s.withStatus x y a b c).curData = s.curData := rfl

/-! ## withResult -/

@[simp] theorem State.withResult_host (s : State) (h : Option (NfHeader × Quad)) (recs : List FlowRecord) : (s.withResult h recs).host = s.host := rfl
@[simp] theorem State.withResult_inbuf (s : State) (h : Option (NfHeader × Quad)) (recs : List FlowRecord) : (s.withResult h recs).inbuf = s.inbuf := rfl
@[simp] theorem State.withResult_inbufLen (s : State) (h : Option (NfHeader × Quad)) (recs : List FlowRecord) : (s.withResult h recs).inbufLen = s.inbufLen := rfl
@[simp] theorem State.withResult_cfgPort (s : State) (h : Option (NfHeader × Quad)) (recs : List FlowRecord) : (s.withResult h recs).cfgPort = s.cfgPort := rfl
@[simp] theorem State.withResult_status (s : State) (h : Option (NfHeader × Quad)) (recs : List FlowRecord) : (s.withResult h recs).status = s.status := rfl
@[simp] theorem State.withResult_errStage (s : State) (h : Option (NfHeader × Quad)) (recs : List FlowRecord) : (s.withResult h recs).errStage = s.errStage := rfl
@[simp] theorem State.withResult_errA (s : State) (h : Option (NfHeader × Quad)) (recs : List FlowRecord) : (s.withResult h recs).errA = s.errA := rfl
@[simp] theorem State.withResult_errB (s : State) (h : Option (NfHeader × Quad)) (recs : List FlowRecord) : (s.withResult h recs).errB = s.errB := rfl
@[simp] theorem State.withResult_errC (s : State) (h : Option (NfHeader × Quad)) (recs : List FlowRecord) : (s.withResult h recs).errC = s.errC := rfl
@[simp] theorem State.withResult_hdrValid (s : State) (h : Option (NfHeader × Quad)) (recs : List FlowRecord) : (s.withResult h recs).hdrValid = h.isSome := rfl
@[simp] theorem State.withResult_hdr (s : State) (h : Option (NfHeader × Quad)) (recs : List FlowRecord) : (s.withResult h recs).hdr = (h.map Prod.fst).getD ⟨0, 0, 0, 0, 0, 0, 0, 0, 0⟩ := rfl
@[simp] theorem State.withResult_bootTimeNs (s : State) (h : Option (NfHeader × Quad)) (recs : List FlowRecord) : (s.withResult h recs).bootTimeNs = (h.map Prod.snd).getD 0 := rfl
@[simp] theorem State.withResult_recCount (s : State) (h : Option (NfHeader × Quad)) (recs : List FlowRecord) : (s.withResult h recs).recCount = BitVec.ofNat 16 recs.length := rfl
@[simp] theorem State.withResult_recs (s : State) (h : Option (NfHeader × Quad)) (recs : List FlowRecord) : (s.withResult h recs).recs = recs := rfl
@[simp] theorem State.withResult_curLen (s : State) (h : Option (NfHeader × Quad)) (recs : List FlowRecord) : (s.withResult h recs).curLen = s.curLen := rfl
@[simp] theorem State.withResult_curPos (s : State) (h : Option (NfHeader × Quad)) (recs : List FlowRecord) : (s.withResult h recs).curPos = s.curPos := rfl
@[simp] theorem State.withResult_curData (s : State) (h : Option (NfHeader × Quad)) (recs : List FlowRecord) : (s.withResult h recs).curData = s.curData := rfl

/-! ## commit: what every decode-class command leaves alone -/

@[simp] theorem State.commit_host (s : State) (r : Except PipelineError DecodeResult) :
    (s.commit r).host = s.host := by
  rcases r with e | ⟨_ | h, boot, recs⟩ <;> rfl
@[simp] theorem State.commit_inbuf (s : State) (r : Except PipelineError DecodeResult) :
    (s.commit r).inbuf = s.inbuf := by
  rcases r with e | ⟨_ | h, boot, recs⟩ <;> rfl
@[simp] theorem State.commit_inbufLen (s : State) (r : Except PipelineError DecodeResult) :
    (s.commit r).inbufLen = s.inbufLen := by
  rcases r with e | ⟨_ | h, boot, recs⟩ <;> rfl
@[simp] theorem State.commit_cfgPort (s : State) (r : Except PipelineError DecodeResult) :
    (s.commit r).cfgPort = s.cfgPort := by
  rcases r with e | ⟨_ | h, boot, recs⟩ <;> rfl
@[simp] theorem State.commit_curLen (s : State) (r : Except PipelineError DecodeResult) :
    (s.commit r).curLen = s.curLen := by
  rcases r with e | ⟨_ | h, boot, recs⟩ <;> rfl
@[simp] theorem State.commit_curPos (s : State) (r : Except PipelineError DecodeResult) :
    (s.commit r).curPos = s.curPos := by
  rcases r with e | ⟨_ | h, boot, recs⟩ <;> rfl
@[simp] theorem State.commit_curData (s : State) (r : Except PipelineError DecodeResult) :
    (s.commit r).curData = s.curData := by
  rcases r with e | ⟨_ | h, boot, recs⟩ <;> rfl

/-! ## The expected register values of Safety, in terms of the write-backs -/

theorem State.rejected_eq_commitErr (s : State) (stage : Stage) (code : ErrCode) (a b c : Nat) :
    s.commitErr ⟨stage, code, BitVec.ofNat 32 a, BitVec.ofNat 32 b, BitVec.ofNat 32 c⟩ =
      s.rejected code.statusValue stage.tagValue a b c := rfl

theorem State.decoded_eq_commitOk_none (s : State) (recs : List FlowRecord) :
    s.commitOk ⟨none, 0, recs⟩ = s.decoded none recs := rfl

theorem State.decoded_eq_commitOk_some (s : State) (h : NfHeader) (boot : Quad) (recs : List FlowRecord) :
    s.commitOk ⟨some h, boot, recs⟩ = s.decoded (some (h, boot)) recs := rfl

/-! ## Reading a byte depends on INBUF and INBUF_LEN alone -/

theorem State.readByte_congr {s t : State} (hm : t.inbuf = s.inbuf) (hl : t.inbufLen = s.inbufLen) (a : Nat) :
    t.readByte a = s.readByte a := by
  simp only [State.readByte, hm, hl]

@[simp] theorem State.readByte_statusOk (s : State) (a : Nat) : s.statusOk.readByte a = s.readByte a := rfl

@[simp] theorem State.readByte_statusErr (s : State) (e : PipelineError) (a : Nat) :
    (s.statusErr e).readByte a = s.readByte a := rfl

@[simp] theorem State.readByte_commit (s : State) (r : Except PipelineError DecodeResult) (a : Nat) :
    (s.commit r).readByte a = s.readByte a :=
  State.readByte_congr (by simp) (by simp) a

end Sys2Proof.Machine
end

