-- ==== Sys2Proof/Laws/Memory.lean ====
section
/-! SUPPORT. INBUF: reads as sums of bytes, the canonical form that loading keeps, and what a loaded buffer holds. -/

namespace Sys2Proof.Machine

@[simp] theorem Inbuf.byteAt_nil (a : Nat) : Inbuf.byteAt [] a = 0 := rfl

theorem Inbuf.byteAt_cons (address : Nat) (byte : Byte) (rest : Inbuf) (a : Nat) :
    Inbuf.byteAt ((address, byte) :: rest) a = if address = a then byte else Inbuf.byteAt rest a := rfl

theorem Inbuf.u8_lt (m : Inbuf) (a : Nat) : m.u8 a < 256 := (m.byteAt a).isLt

theorem Inbuf.u16_lt (m : Inbuf) (a : Nat) : m.u16 a < 65536 := by
  have h0 := m.u8_lt a
  have h1 := m.u8_lt (a + 1)
  simp only [Inbuf.u16]
  omega

theorem Inbuf.u32_lt (m : Inbuf) (a : Nat) : m.u32 a < 4294967296 := by
  have h0 := m.u8_lt a
  have h1 := m.u8_lt (a + 1)
  have h2 := m.u8_lt (a + 2)
  have h3 := m.u8_lt (a + 3)
  simp only [Inbuf.u32]
  omega

@[simp] theorem Inbuf.memRead_zero (m : Inbuf) (a : Nat) : m.memRead a 0 = 0 := rfl

theorem Inbuf.memRead_succ (m : Inbuf) (a n : Nat) :
    m.memRead a (n + 1) = m.memRead a n * 256 + m.u8 (a + n) := rfl

theorem Inbuf.memRead_one (m : Inbuf) (a : Nat) : m.memRead a 1 = m.u8 a := by
  simp [Inbuf.memRead_succ]

theorem Inbuf.memRead_two (m : Inbuf) (a : Nat) : m.memRead a 2 = m.u16 a := by
  simp [Inbuf.memRead_succ, Inbuf.u16]

theorem Inbuf.memRead_four (m : Inbuf) (a : Nat) : m.memRead a 4 = m.u32 a := by
  simp only [Inbuf.memRead_succ, Inbuf.memRead_zero, Inbuf.u32, Nat.add_zero]
  omega

theorem Inbuf.winRead_one (m : Inbuf) (w : Window) (off : Nat) : m.winRead w off 1 = m.u8 (w.base + off) :=
  m.memRead_one _

theorem Inbuf.winRead_two (m : Inbuf) (w : Window) (off : Nat) : m.winRead w off 2 = m.u16 (w.base + off) :=
  m.memRead_two _

theorem Inbuf.winRead_four (m : Inbuf) (w : Window) (off : Nat) : m.winRead w off 4 = m.u32 (w.base + off) :=
  m.memRead_four _

/-- A read depends on the bytes it names alone. -/
theorem Inbuf.memRead_congr {m m' : Inbuf} {a : Nat} : {n : Nat} →
    (∀ k, k < n → m.byteAt (a + k) = m'.byteAt (a + k)) → m.memRead a n = m'.memRead a n
  | 0, _ => rfl
  | n + 1, h => by
    have ih : m.memRead a n = m'.memRead a n := Inbuf.memRead_congr fun k hk => h k (Nat.lt_succ_of_lt hk)
    simp only [Inbuf.memRead_succ, Inbuf.u8, ih, h n (Nat.lt_succ_self n)]

/-! ## The canonical form -/

theorem Inbuf.wfFrom_mono {lo lo' : Nat} (h : lo ≤ lo') : {m : Inbuf} →
    Inbuf.wfFrom lo' m = true → Inbuf.wfFrom lo m = true
  | [], _ => rfl
  | (address, byte) :: rest, hm => by
    simp only [Inbuf.wfFrom, Bool.and_eq_true, decide_eq_true_eq] at hm ⊢
    exact ⟨⟨by omega, hm.1.2⟩, hm.2⟩

theorem Inbuf.byteAt_of_lt_wfFrom : {lo : Nat} → {m : Inbuf} → {a : Nat} →
    Inbuf.wfFrom lo m = true → a < lo → m.byteAt a = 0
  | _, [], _, _, _ => rfl
  | lo, (address, byte) :: rest, a, hm, ha => by
    simp only [Inbuf.wfFrom, Bool.and_eq_true, decide_eq_true_eq] at hm
    rw [Inbuf.byteAt_cons, if_neg (by omega)]
    exact Inbuf.byteAt_of_lt_wfFrom hm.2 (by omega)

theorem Inbuf.ofBytesFrom_zero (base : Nat) {b : Byte} (hb : b = 0) (rest : List Byte) :
    Inbuf.ofBytesFrom base (b :: rest) = Inbuf.ofBytesFrom (base + 1) rest := if_pos hb

theorem Inbuf.ofBytesFrom_nonzero (base : Nat) {b : Byte} (hb : b ≠ 0) (rest : List Byte) :
    Inbuf.ofBytesFrom base (b :: rest) = (base, b) :: Inbuf.ofBytesFrom (base + 1) rest := if_neg hb

theorem Inbuf.wfFrom_ofBytesFrom : (base : Nat) → (bytes : List Byte) →
    Inbuf.wfFrom base (Inbuf.ofBytesFrom base bytes) = true
  | _, [] => rfl
  | base, b :: rest => by
    have ih := Inbuf.wfFrom_ofBytesFrom (base + 1) rest
    by_cases hb : b = 0
    · rw [Inbuf.ofBytesFrom_zero base hb]
      exact Inbuf.wfFrom_mono (Nat.le_succ base) ih
    · rw [Inbuf.ofBytesFrom_nonzero base hb]
      simp only [Inbuf.wfFrom, ih, Nat.le_refl, decide_true, Bool.and_true, Bool.true_and, bne_iff_ne]
      exact hb

theorem Inbuf.mem_ofBytesFrom : (base : Nat) → (bytes : List Byte) → (cell : Host.Cell) →
    cell ∈ Inbuf.ofBytesFrom base bytes → cell.1 < base + bytes.length
  | base, b :: rest, cell, h => by
    have ih := Inbuf.mem_ofBytesFrom (base + 1) rest cell
    by_cases hb : b = 0
    · have := ih (by rwa [Inbuf.ofBytesFrom_zero base hb] at h)
      simp only [List.length_cons]
      omega
    · simp only [Inbuf.ofBytesFrom_nonzero base hb, List.mem_cons] at h
      rcases h with rfl | h
      · simp
      · have := ih h
        simp only [List.length_cons]
        omega

/-- Loading INBUF gives a memory in canonical form. -/
theorem Inbuf.ofBytes_wf (bytes : List Byte) : (Inbuf.ofBytes bytes).wf = true :=
  Inbuf.wfFrom_ofBytesFrom 0 bytes

/-- Loading INBUF lists nothing outside it. -/
theorem Inbuf.ofBytes_below (bytes : List Byte) : (Inbuf.ofBytes bytes).below bytes.length = true := by
  simp only [Inbuf.below, List.all_eq_true, decide_eq_true_eq]
  intro cell h
  simpa using Inbuf.mem_ofBytesFrom 0 bytes cell h

/-- The reset state's memory is in canonical form. -/
theorem State.reset_inbuf_wf : State.reset.inbuf.wf = true := rfl

theorem Inbuf.byteAt_ofBytesFrom : (base : Nat) → (bytes : List Byte) → (k : Nat) →
    (Inbuf.ofBytesFrom base bytes).byteAt (base + k) = bytes.getD k 0
  | _, [], _ => by simp [Inbuf.ofBytesFrom]
  | base, b :: rest, 0 => by
    by_cases hb : b = 0
    · rw [Inbuf.ofBytesFrom_zero base hb, hb]
      exact Inbuf.byteAt_of_lt_wfFrom (Inbuf.wfFrom_ofBytesFrom (base + 1) rest) (Nat.lt_succ_self base)
    · rw [Inbuf.ofBytesFrom_nonzero base hb, Inbuf.byteAt_cons, if_pos (Nat.add_zero base).symm]
      rfl
  | base, b :: rest, k + 1 => by
    have ih := Inbuf.byteAt_ofBytesFrom (base + 1) rest k
    have e : base + 1 + k = base + (k + 1) := by omega
    rw [e] at ih
    by_cases hb : b = 0
    · rw [Inbuf.ofBytesFrom_zero base hb, ih]
      rfl
    · rw [Inbuf.ofBytesFrom_nonzero base hb, Inbuf.byteAt_cons, if_neg (by omega), ih]
      rfl

/-- A loaded buffer holds the bytes it was loaded from. -/
theorem Inbuf.byteAt_ofBytes (bytes : List Byte) (a : Nat) : (Inbuf.ofBytes bytes).byteAt a = bytes.getD a 0 := by
  have h := Inbuf.byteAt_ofBytesFrom 0 bytes a
  rwa [Nat.zero_add] at h

/-! ## readByte: which addresses exist -/

theorem State.readByte_of_lt {s : State} {a : Nat} (h : a < s.inbufLen.toNat) :
    s.readByte a = some (s.inbuf.byteAt a) := if_pos h

theorem State.readByte_of_le {s : State} {a : Nat} (h : s.inbufLen.toNat ≤ a) : s.readByte a = none :=
  if_neg (Nat.not_lt.mpr h)

theorem State.readByte_eq_some {s : State} {a : Nat} {b : Byte} :
    s.readByte a = some b ↔ a < s.inbufLen.toNat ∧ s.inbuf.byteAt a = b := by
  by_cases h : a < s.inbufLen.toNat <;> simp [State.readByte, h]

end Sys2Proof.Machine
end

