-- ==== Sys2Proof/Laws/Ops.lean ====
section
/-! SUPPORT. One lemma for each shared operation that says once what it can do: the cursor primitives, the header and
record decoders, the stages and the chain. -/

namespace Sys2Proof.Machine

/-! ## Cursor primitives -/

theorem curRead_of_fits {m : Inbuf} {c : Cursor} {n : Nat} {stage : Stage} (h : c.pos + n ≤ c.win.len) :
    curRead m c n stage = .ok (m.winRead c.win c.pos n, ⟨c.win, c.pos + n⟩) :=
  if_neg (Nat.not_lt.mpr h)

theorem curRead_of_short {m : Inbuf} {c : Cursor} {n : Nat} {stage : Stage} (h : c.win.len < c.pos + n) :
    curRead m c n stage = raiseError .outOfBounds stage c.pos n c.win.len :=
  if_pos h

theorem curSkip_of_fits {c : Cursor} {n : Nat} {stage : Stage} (h : c.pos + n ≤ c.win.len) :
    curSkip c n stage = .ok ⟨c.win, c.pos + n⟩ :=
  if_neg (Nat.not_lt.mpr h)

theorem curSkip_of_short {c : Cursor} {n : Nat} {stage : Stage} (h : c.win.len < c.pos + n) :
    curSkip c n stage = raiseError .outOfBounds stage c.pos n c.win.len :=
  if_pos h

theorem requireLen_of_fits {w : Window} {n : Nat} {stage : Stage} (h : n ≤ w.len) : requireLen w n stage = .ok () :=
  if_neg (Nat.not_lt.mpr h)

theorem requireLen_of_short {w : Window} {n : Nat} {stage : Stage} (h : w.len < n) :
    requireLen w n stage = raiseError .outOfBounds stage 0 n w.len :=
  if_pos h

/-! ## The Netflow header -/

theorem hdrRead_of_fits {m : Inbuf} {c : Cursor} {n : Nat} (h : c.pos + n ≤ c.win.len) :
    hdrRead m c n = .ok (m.winRead c.win c.pos n, ⟨c.win, c.pos + n⟩) := by
  simp only [hdrRead, curRead_of_fits h]

theorem hdrRead_of_short {m : Inbuf} {c : Cursor} {n : Nat} (h : c.win.len < c.pos + n) :
    hdrRead m c n = raiseError .malformedHeader .netflow c.pos n c.win.len := by
  simp only [hdrRead, curRead_of_short h, raiseError]

/-- A header read either gives the field and the cursor behind it, or is the MalformedHeader of the field. -/
theorem hdrRead_cases (m : Inbuf) (c : Cursor) (n : Nat) :
    (c.pos + n ≤ c.win.len ∧ hdrRead m c n = .ok (m.winRead c.win c.pos n, ⟨c.win, c.pos + n⟩)) ∨
    (c.win.len < c.pos + n ∧ hdrRead m c n = raiseError .malformedHeader .netflow c.pos n c.win.len) := by
  rcases Nat.lt_or_ge c.win.len (c.pos + n) with h | h
  · exact .inr ⟨h, hdrRead_of_short h⟩
  · exact .inl ⟨h, hdrRead_of_fits h⟩

/-- With 24 bytes, only the version decides, and the header is the one of R98's layout. -/
theorem decodeHeader_of_fits {m : Inbuf} {w : Window} (h : 24 ≤ w.len) :
    decodeHeader m w = if m.u16 w.base ≠ 5 then raiseError .unsupportedVersion .netflow (m.u16 w.base) 0 0
      else .ok (m.headerAt w.base) := by
  have e2 : 2 ≤ w.len := by omega
  have e4 : 4 ≤ w.len := by omega
  have e8 : 8 ≤ w.len := by omega
  have e12 : 12 ≤ w.len := by omega
  have e16 : 16 ≤ w.len := by omega
  have e20 : 20 ≤ w.len := by omega
  have e21 : 21 ≤ w.len := by omega
  have e22 : 22 ≤ w.len := by omega
  simp [decodeHeader, Cursor.start, hdrRead_of_fits, h, e2, e4, e8, e12, e16, e20, e21, e22, bind, Except.bind,
    Inbuf.winRead_one, Inbuf.winRead_two, Inbuf.winRead_four, Inbuf.headerAt]

/-- A bind of Except that fails: the first part failed, or it answered and the rest failed. -/
theorem bind_error {α β : Type} {x : Except PipelineError α} {f : α → Except PipelineError β} {e : PipelineError}
    (h : (x >>= f) = .error e) : x = .error e ∨ ∃ a, x = .ok a ∧ f a = .error e := by
  cases x with
  | error e' => cases h; exact .inl rfl
  | ok a => exact .inr ⟨a, rfl, h⟩

/-- A bind of Except that answers: both parts did. -/
theorem bind_ok {α β : Type} {x : Except PipelineError α} {f : α → Except PipelineError β} {b : β}
    (h : (x >>= f) = .ok b) : ∃ a, x = .ok a ∧ f a = .ok b := by
  cases x with
  | error e' => cases h
  | ok a => exact ⟨a, rfl, h⟩

/-- A failed header read is a MalformedHeader of the Netflow stage. -/
theorem hdrRead_error {m : Inbuf} {c : Cursor} {n : Nat} {e : PipelineError} (h : hdrRead m c n = .error e) :
    e.stage = .netflow ∧ e.code = .malformedHeader := by
  rcases hdrRead_cases m c n with ⟨-, hr⟩ | ⟨-, hr⟩ <;> rw [hr] at h <;> cases h
  exact ⟨rfl, rfl⟩

/-- What a failed header decode reports: MalformedHeader or UnsupportedVersion, of the Netflow stage. -/
theorem decodeHeader_error {m : Inbuf} {w : Window} {e : PipelineError} (h : decodeHeader m w = .error e) :
    e.stage = .netflow ∧ (e.code = .malformedHeader ∨ e.code = .unsupportedVersion) := by
  unfold decodeHeader at h
  iterate 9
    obtain h | ⟨⟨_, _⟩, -, h⟩ := bind_error h
    · exact ⟨(hdrRead_error h).1, .inl (hdrRead_error h).2⟩
  dsimp only at h
  split at h <;> cases h
  exact ⟨rfl, .inr rfl⟩

/-- A header decode that answers had 24 bytes, and the version was 5. -/
theorem decodeHeader_ok {m : Inbuf} {w : Window} {h : NfHeader} (hd : decodeHeader m w = .ok h) :
    24 ≤ w.len ∧ m.u16 w.base = 5 ∧ h = m.headerAt w.base := by
  have hlen : 24 ≤ w.len := by
    have hd' := hd
    unfold decodeHeader at hd'
    iterate 9
      obtain ⟨⟨_, _⟩, hr, hd'⟩ := bind_ok hd'
      rcases hdrRead_cases m _ _ with ⟨_, hc⟩ | ⟨-, hc⟩ <;> rw [hc] at hr <;> cases hr
    simpa [Cursor.start] using ‹_ + 2 ≤ _›
  rw [decodeHeader_of_fits hlen] at hd
  split at hd
  · cases hd
  · cases hd
    exact ⟨hlen, by omega, rfl⟩

/-! ## The boot time -/

/-- The wall clock in nanoseconds does not wrap. -/
theorem wallNs_toNat (h : NfHeader) :
    (wallNs h).toNat = h.unixSecs.toNat * 1000000000 + h.unixNsecs.toNat := by
  have h1 := h.unixSecs.isLt
  have h2 := h.unixNsecs.isLt
  rw [wallNs, BitVec.toNat_add, BitVec.toNat_mul, BitVec.toNat_setWidth, BitVec.toNat_setWidth, BitVec.toNat_ofNat]
  omega

/-- The uptime in nanoseconds does not wrap. -/
theorem uptimeNs_toNat (h : NfHeader) : (uptimeNs h).toNat = h.sysUptimeMs.toNat * 1000000 := by
  have h1 := h.sysUptimeMs.isLt
  rw [uptimeNs, BitVec.toNat_mul, BitVec.toNat_setWidth, BitVec.toNat_ofNat]
  omega

/-! ## The records -/

/-- A record loop that answers gives one record for each it was asked for. -/
theorem decodeRecordsFrom_length {m : Inbuf} {w : Window} {count : Nat} : {todo i : Nat} → {recs : List FlowRecord} →
    decodeRecordsFrom m w count i todo = .ok recs → recs.length = todo
  | 0, _, _, h => by cases h; rfl
  | todo + 1, i, recs, h => by
    unfold decodeRecordsFrom at h
    split at h
    · cases h
    · obtain ⟨rest, hr, h⟩ := bind_ok h
      cases h
      rw [List.length_cons, decodeRecordsFrom_length hr]

/-- A record loop that fails reports TruncatedRecord of the Netflow stage. -/
theorem decodeRecordsFrom_error {m : Inbuf} {w : Window} {count : Nat} : {todo i : Nat} → {e : PipelineError} →
    decodeRecordsFrom m w count i todo = .error e → e.stage = .netflow ∧ e.code = .truncatedRecord
  | 0, _, _, h => by cases h
  | todo + 1, i, e, h => by
    unfold decodeRecordsFrom at h
    split at h
    · cases h
      exact ⟨rfl, rfl⟩
    · obtain h | ⟨rest, -, h⟩ := bind_error h
      · exact decodeRecordsFrom_error h
      · cases h

theorem decodeRecords_length {m : Inbuf} {w : Window} {count : Nat} {recs : List FlowRecord}
    (h : decodeRecords m w count = .ok recs) : recs.length = count :=
  decodeRecordsFrom_length h

theorem decodeRecords_error {m : Inbuf} {w : Window} {count : Nat} {e : PipelineError}
    (h : decodeRecords m w count = .error e) : e.stage = .netflow ∧ e.code = .truncatedRecord :=
  decodeRecordsFrom_error h

/-- Nothing is read for a count of 0. -/
@[simp] theorem decodeRecords_zero (m : Inbuf) (w : Window) : decodeRecords m w 0 = .ok [] := rfl

/-- What a failed Netflow decode reports. -/
theorem netflowDecode_error {m : Inbuf} {w : Window} {e : PipelineError} (h : netflowDecode m w = .error e) :
    e.stage = .netflow ∧
      (e.code = .malformedHeader ∨ e.code = .unsupportedVersion ∨ e.code = .truncatedRecord) := by
  obtain h | ⟨hdr, -, h⟩ := bind_error h
  · exact ⟨(decodeHeader_error h).1, (decodeHeader_error h).2.imp_right .inl⟩
  · obtain h | ⟨recs, -, h⟩ := bind_error h
    · exact ⟨(decodeRecords_error h).1, .inr (.inr (decodeRecords_error h).2)⟩
    · cases h

/-- What a Netflow decode that answers gives: the version 5 header at the window's start, its boot time, and as many
records as it counts. -/
theorem netflowDecode_ok {m : Inbuf} {w : Window} {r : DecodeResult} (h : netflowDecode m w = .ok r) :
    24 ≤ w.len ∧ m.u16 w.base = 5 ∧ r.hdr = some (m.headerAt w.base) ∧ r.boot = bootTime (m.headerAt w.base) ∧
      decodeRecords m w (m.headerAt w.base).count.toNat = .ok r.recs ∧
      r.recs.length = (m.headerAt w.base).count.toNat := by
  obtain ⟨hdr, hh, h⟩ := bind_ok h
  obtain ⟨recs, hr, h⟩ := bind_ok h
  cases h
  obtain ⟨hl, hv, rfl⟩ := decodeHeader_ok hh
  exact ⟨hl, hv, rfl, rfl, hr, decodeRecords_length hr⟩

/-! ## The stages -/

/-- What the link stage can answer. -/
theorem linkStage_cases (m : Inbuf) (w : Window) :
    (w.len < 14 ∧ linkStage m w = raiseError .outOfBounds .link 0 14 w.len) ∨
    (14 ≤ w.len ∧ m.u16 (w.base + 12) ≠ 0x0800 ∧
      linkStage m w = raiseError .unexpectedLinkType .link (m.u16 (w.base + 12)) 0 0) ∨
    (14 ≤ w.len ∧ m.u16 (w.base + 12) = 0x0800 ∧ linkStage m w = .ok (w.sub 14)) := by
  rcases Nat.lt_or_ge w.len 14 with h | h
  · exact .inl ⟨h, by simp only [linkStage, requireLen_of_short h]; rfl⟩
  · by_cases ht : m.u16 (w.base + 12) = 0x0800
    · exact .inr (.inr ⟨h, ht, by simp [linkStage, requireLen_of_fits h, Inbuf.winRead_two, ht, bind, Except.bind]⟩)
    · exact .inr (.inl ⟨h, ht, by simp [linkStage, requireLen_of_fits h, Inbuf.winRead_two, ht, bind, Except.bind]⟩)

/-- What the network stage can answer. -/
theorem netStage_cases (m : Inbuf) (w : Window) :
    (w.len < 20 ∧ netStage m w = raiseError .outOfBounds .network 0 20 w.len) ∨
    (20 ≤ w.len ∧ m.u8 w.base % 16 < 5 ∧
      netStage m w = raiseError .malformedHeader .network (m.u8 w.base % 16) 0 w.len) ∨
    (20 ≤ w.len ∧ 5 ≤ m.u8 w.base % 16 ∧ w.len < 4 * (m.u8 w.base % 16) ∧
      netStage m w = raiseError .outOfBounds .network 20 (4 * (m.u8 w.base % 16) - 20) w.len) ∨
    (20 ≤ w.len ∧ 5 ≤ m.u8 w.base % 16 ∧ 4 * (m.u8 w.base % 16) ≤ w.len ∧ m.u8 (w.base + 9) ≠ 17 ∧
      netStage m w = raiseError .unexpectedNetworkProtocol .network (m.u8 (w.base + 9)) 0 0) ∨
    (20 ≤ w.len ∧ 5 ≤ m.u8 w.base % 16 ∧ 4 * (m.u8 w.base % 16) ≤ w.len ∧ m.u8 (w.base + 9) = 17 ∧
      netStage m w = .ok (w.sub (4 * (m.u8 w.base % 16)))) := by
  rcases Nat.lt_or_ge w.len 20 with h | h
  · exact .inl ⟨h, by simp only [netStage, requireLen_of_short h]; rfl⟩
  have hn : netStage m w =
      if m.u8 w.base % 16 < 5 then raiseError .malformedHeader .network (m.u8 w.base % 16) 0 w.len
      else if 4 * (m.u8 w.base % 16) > w.len then
        raiseError .outOfBounds .network 20 (4 * (m.u8 w.base % 16) - 20) w.len
      else if m.u8 (w.base + 9) ≠ 17 then
        raiseError .unexpectedNetworkProtocol .network (m.u8 (w.base + 9)) 0 0
      else .ok (w.sub (4 * (m.u8 w.base % 16))) := by
    simp [netStage, requireLen_of_fits h, ihlOf, Inbuf.winRead_one, bind, Except.bind]
  rw [hn]
  rcases Nat.lt_or_ge (m.u8 w.base % 16) 5 with h5 | h5
  · exact .inr (.inl ⟨h, h5, if_pos h5⟩)
  rw [if_neg (by omega)]
  rcases Nat.lt_or_ge w.len (4 * (m.u8 w.base % 16)) with hl | hl
  · exact .inr (.inr (.inl ⟨h, h5, hl, if_pos hl⟩))
  rw [if_neg (by omega)]
  by_cases hp : m.u8 (w.base + 9) = 17
  · exact .inr (.inr (.inr (.inr ⟨h, h5, hl, hp, if_neg (by omega)⟩)))
  · exact .inr (.inr (.inr (.inl ⟨h, h5, hl, hp, if_pos hp⟩)))

/-- What the transport stage can answer. -/
theorem transportStage_cases (m : Inbuf) (port : Half) (w : Window) :
    (w.len < 8 ∧ transportStage m port w = raiseError .outOfBounds .transport 0 8 w.len) ∨
    (8 ≤ w.len ∧ m.u16 (w.base + 2) ≠ port.toNat ∧
      transportStage m port w = raiseError .unexpectedPort .transport (m.u16 (w.base + 2)) port.toNat 0) ∨
    (8 ≤ w.len ∧ m.u16 (w.base + 2) = port.toNat ∧ transportStage m port w = .ok (w.sub 8)) := by
  rcases Nat.lt_or_ge w.len 8 with h | h
  · exact .inl ⟨h, by simp only [transportStage, requireLen_of_short h]; rfl⟩
  · by_cases ht : m.u16 (w.base + 2) = port.toNat
    · exact .inr (.inr ⟨h, ht, by
        simp [transportStage, requireLen_of_fits h, Inbuf.winRead_two, ht, bind, Except.bind]⟩)
    · exact .inr (.inl ⟨h, ht, by
        simp [transportStage, requireLen_of_fits h, Inbuf.winRead_two, ht, bind, Except.bind]⟩)

/-! ## The user cursor's commands -/

/-- What a user-cursor read can answer. -/
theorem readCommand_cases (n : Nat) (s : State) :
    (s.curLen.toNat < s.curPos.toNat + n ∧
      readCommand n s = .next (s.withStatus 1 5 s.curPos.toNat n s.curLen.toNat)) ∨
    (s.curPos.toNat + n ≤ s.curLen.toNat ∧ s.inbufLen.toNat < s.curPos.toNat + n ∧
      readCommand n s = .fault .inbufAddress) ∨
    (s.curPos.toNat + n ≤ s.curLen.toNat ∧ s.curPos.toNat + n ≤ s.inbufLen.toNat ∧
      readCommand n s = .next (State.statusOk { s with
        curData := BitVec.ofNat 32 (s.inbuf.memRead s.curPos.toNat n),
        curPos := BitVec.ofNat 32 (s.curPos.toNat + n) })) := by
  rcases Nat.lt_or_ge s.curLen.toNat (s.curPos.toNat + n) with h | h
  · exact .inl ⟨h, by simp only [readCommand, curRead_of_short (c := s.userCursor) h]; rfl⟩
  have hr : curRead s.inbuf s.userCursor n .cursor = .ok (s.inbuf.memRead s.curPos.toNat n,
      ⟨⟨0, s.curLen.toNat⟩, s.curPos.toNat + n⟩) := by
    rw [curRead_of_fits (c := s.userCursor) h]
    simp only [State.userCursor, Inbuf.winRead, Nat.zero_add]
  rcases Nat.lt_or_ge s.inbufLen.toNat (s.curPos.toNat + n) with hl | hl
  · exact .inr (.inl ⟨h, hl, by simp only [readCommand, hr]; exact if_pos hl⟩)
  · exact .inr (.inr ⟨h, hl, by simp only [readCommand, hr]; exact if_neg (by omega)⟩)

/-- What a user-cursor skip can answer. -/
theorem execCurSkip_cases (imm : Half) (s : State) :
    (s.curLen.toNat < s.curPos.toNat + imm.toNat ∧
      execCurSkip imm s = .next (s.withStatus 1 5 s.curPos.toNat imm.toNat s.curLen.toNat)) ∨
    (s.curPos.toNat + imm.toNat ≤ s.curLen.toNat ∧
      execCurSkip imm s = .next (State.statusOk { s with curPos := BitVec.ofNat 32 (s.curPos.toNat + imm.toNat) })) := by
  rcases Nat.lt_or_ge s.curLen.toNat (s.curPos.toNat + imm.toNat) with h | h
  · exact .inl ⟨h, by
      simp only [execCurSkip, curSkip_of_short (c := s.userCursor) (n := immCount imm) h]; rfl⟩
  · exact .inr ⟨h, by
      simp only [execCurSkip, curSkip_of_fits (c := s.userCursor) (n := immCount imm) h]; rfl⟩

/-! ## The write-back of the decode-class commands -/

/-- A decode-class command commits what its internal functions return. -/
theorem exec_decodeClass {i : Instr} (h : decodeClass i = true) (s : State) :
    ∃ r, exec i s = .next (s.commit r) := by
  cases i <;> first | exact ⟨_, rfl⟩ | cases h

end Sys2Proof.Machine
end

