-- ==== Sys2Proof/Laws/Exec.lean ====
section
/-! SUPPORT. What a command and a step can do, said once: the inversion lemmas of exec and of step, and the laws of
the decode-class write-back. -/

namespace Sys2Proof.Machine

/-! ## The write-back of a decode-class command -/

/-- A second write-back of the same outcome changes nothing. -/
theorem commit_commit (s : State) (r : Except PipelineError DecodeResult) : (s.commit r).commit r = s.commit r := by
  rcases r with e | ⟨_ | h, boot, recs⟩ <;> rfl

/-- The write-back hides the status group before it. -/
theorem commit_withStatus (s : State) (x y : Byte) (a b c : Nat) (r : Except PipelineError DecodeResult) :
    (s.withStatus x y a b c).commit r = s.commit r := by
  rcases r with e | ⟨_ | h, boot, recs⟩ <;> rfl

/-- The write-back hides the decode result group before it. -/
theorem commit_withResult (s : State) (h : Option (NfHeader × Quad)) (recs : List FlowRecord)
    (r : Except PipelineError DecodeResult) : (s.withResult h recs).commit r = s.commit r := by
  rcases r with e | ⟨_ | h, boot, recs⟩ <;> rfl

/-- A write-back leaves success, or the code and the tag of the error. -/
theorem commit_cases (s : State) (r : Except PipelineError DecodeResult) :
    ((s.commit r).status = 0 ∧ (s.commit r).errStage = 0 ∧ (s.commit r).errA = 0 ∧ (s.commit r).errB = 0 ∧
      (s.commit r).errC = 0) ∨
    ∃ e, r = .error e ∧ (s.commit r).status = e.code.statusValue ∧ (s.commit r).errStage = e.stage.tagValue := by
  rcases r with e | ⟨_ | h, boot, recs⟩
  · exact .inr ⟨e, rfl, rfl, rfl⟩
  · exact .inl ⟨rfl, rfl, rfl, rfl, rfl⟩
  · exact .inl ⟨rfl, rfl, rfl, rfl, rfl⟩

/-- What a decode-class command commits on success: at most 65535 records; no boot time without a header; a header of
version 5 with its boot time, and with no record or as many as it counts. -/
structure DecodeResult.Good (r : DecodeResult) : Prop where
  bounded  : r.recs.length < 65536
  noHeader : r.hdr = none → r.boot = 0
  header   : ∀ h, r.hdr = some h →
    h.version = 5 ∧ r.boot = bootTime h ∧ (r.recs.length = 0 ∨ r.recs.length = h.count.toNat)

theorem netflowDecode_good {m : Inbuf} {w : Window} {r : DecodeResult} (h : netflowDecode m w = .ok r) : r.Good := by
  obtain ⟨-, h2, h3, h4, -, h6⟩ := netflowDecode_ok h
  refine ⟨by rw [h6]; exact BitVec.isLt _, by simp [h3], ?_⟩
  intro hdr hh
  rw [h3] at hh
  cases hh
  exact ⟨by simp [Inbuf.headerAt, h2], h4, .inr h6⟩

/-- A decode-class command commits an error or a good result. -/
theorem exec_decodeClass_good {i : Instr} (hd : decodeClass i = true) (s : State) :
    ∃ r, exec i s = .next (s.commit r) ∧ ∀ q, r = .ok q → q.Good := by
  cases i <;> simp only [decodeClass, Bool.false_eq_true] at hd
  · refine ⟨_, rfl, fun q h => ?_⟩
    obtain ⟨hdr, hh, h⟩ := bind_ok h
    cases h
    obtain ⟨-, hv, rfl⟩ := decodeHeader_ok hh
    exact ⟨by simp, by simp, fun h e => by cases e; exact ⟨by simp [Inbuf.headerAt, hv], rfl, .inl rfl⟩⟩
  · rename_i c
    refine ⟨_, rfl, fun q h => ?_⟩
    obtain ⟨recs, hh, h⟩ := bind_ok h
    cases h
    exact ⟨by rw [decodeRecords_length hh]; exact c.isLt, fun _ => rfl, fun h e => by cases e⟩
  · exact ⟨_, rfl, fun q h => netflowDecode_good h⟩
  · refine ⟨_, rfl, fun q h => ?_⟩
    obtain ⟨_, -, h⟩ := bind_ok h
    obtain ⟨_, -, h⟩ := bind_ok h
    obtain ⟨_, -, h⟩ := bind_ok h
    exact netflowDecode_good h
  · refine ⟨_, rfl, fun q h => ?_⟩
    obtain ⟨_, -, h⟩ := bind_ok h
    obtain ⟨_, -, h⟩ := bind_ok h
    exact netflowDecode_good h
  · refine ⟨_, rfl, fun q h => ?_⟩
    obtain ⟨_, -, h⟩ := bind_ok h
    exact netflowDecode_good h

/-! ## exec and step -/

/-- What a cursor read or skip that goes on can do. -/
def CursorMove (s t : State) : Prop :=
  (∃ a b c, t = s.withStatus 1 5 a b c) ∨
  ∃ (data : Word) (pos : Nat), pos ≤ s.curLen.toNat ∧
    t = State.statusOk { s with curData := data, curPos := BitVec.ofNat 32 pos }

theorem readCommand_next {n : Nat} {s t : State} (h : readCommand n s = .next t) : CursorMove s t := by
  rcases readCommand_cases n s with ⟨-, hc⟩ | ⟨-, -, hc⟩ | ⟨hl, -, hc⟩ <;> rw [hc] at h <;> cases h
  · exact .inl ⟨_, _, _, rfl⟩
  · exact .inr ⟨_, _, hl, rfl⟩

theorem execCurSkip_next {n : Half} {s t : State} (h : execCurSkip n s = .next t) : CursorMove s t := by
  rcases execCurSkip_cases n s with ⟨-, hc⟩ | ⟨hl, hc⟩ <;> rw [hc] at h <;> cases h
  · exact .inl ⟨_, _, _, rfl⟩
  · exact .inr ⟨s.curData, _, hl, rfl⟩

/-- What a command that goes on can do. -/
theorem exec_cases {i : Instr} {s t : State} (h : exec i s = .next t) :
    (decodeClass i = true ∧ ∃ r, t = s.commit r) ∨
    (∃ port, i = .cfgSetPort port ∧ t = State.statusOk { s with cfgPort := port }) ∨
    (i = .curBind ∧ t = State.statusOk { s with curLen := s.inbufLen, curPos := 0, curData := 0 }) ∨
    (cursorClass i = true ∧ i ≠ .curBind ∧ CursorMove s t) := by
  by_cases hd : decodeClass i = true
  · obtain ⟨r, hr⟩ := exec_decodeClass hd s
    rw [hr] at h
    cases h
    exact .inl ⟨hd, r, rfl⟩
  · right
    cases i <;> simp only [decodeClass, Bool.false_eq_true, not_true_eq_false, not_false_eq_true] at hd
    · cases h
      exact .inl ⟨_, rfl, rfl⟩
    · cases h
      exact .inr (.inl ⟨rfl, rfl⟩)
    · exact .inr (.inr ⟨rfl, by simp, readCommand_next h⟩)
    · exact .inr (.inr ⟨rfl, by simp, readCommand_next h⟩)
    · exact .inr (.inr ⟨rfl, by simp, readCommand_next h⟩)
    · exact .inr (.inr ⟨rfl, by simp, execCurSkip_next h⟩)

/-- A command that goes on leaves the host and INBUF as they are. -/
theorem exec_kept {i : Instr} {s t : State} (h : exec i s = .next t) :
    t.host = s.host ∧ t.inbuf = s.inbuf ∧ t.inbufLen = s.inbufLen := by
  rcases exec_cases h with ⟨-, r, rfl⟩ | ⟨p, -, rfl⟩ | ⟨-, rfl⟩ | ⟨-, -, ⟨a, b, c, rfl⟩ | ⟨d, p, -, rfl⟩⟩ <;> simp

/-- What a step that goes on can do: nothing when the host is idle; else the effect of the host's action on the state
with the action taken. -/
theorem step_cases {s t : State} (h : step s = .next t) :
    (s.host = [] ∧ t = s) ∨
    ∃ action rest, s.host = action :: rest ∧
      ((action = .reset ∧ t = State.resetAction { s with host := rest }) ∨
       (∃ bytes, action = .loadInbuf bytes ∧ bytes.length ≤ Config.maxFrameLen.toNat ∧
          t = State.loadInbuf { s with host := rest } bytes) ∨
       (∃ target, action = .read target ∧ t = { s with host := rest }) ∨
       ∃ w, action = .command w ∧
         ((legalWord w = false ∧ t = State.illegalCommand { s with host := rest } w) ∨
          ∃ i, decode w = .ok i ∧ exec i { s with host := rest } = .next t)) := by
  unfold step hostStep at h
  split at h
  · cases h
    exact .inl ⟨‹_›, rfl⟩
  · rename_i action rest hs
    refine .inr ⟨action, rest, hs, ?_⟩
    cases action <;> simp only [hostAct] at h
    · cases h
      exact .inl ⟨rfl, rfl⟩
    · split at h
      · rename_i hb
        cases h
        exact .inr (.inl ⟨_, rfl, hb, rfl⟩)
      · cases h
    · rename_i w
      refine .inr (.inr (.inr ⟨w, rfl, ?_⟩))
      unfold executeWord at h
      split at h
      · exact .inr ⟨_, ‹_›, h⟩
      · rename_i e he
        cases h
        exact .inl ⟨legalWord_of_decode_error he, rfl⟩
    · unfold hostReadAction at h
      split at h
      · cases h
        exact .inr (.inr (.inl ⟨_, rfl, rfl⟩))
      · split at h <;> cases h
    · cases h

/-- In a state that meets R25 every command goes on. -/
theorem exec_goes_on (i : Instr) {s : State} (h : s.curLen.toNat ≤ s.inbufLen.toNat) : ∃ t, exec i s = .next t := by
  have hr : ∀ n, ∃ t, readCommand n s = .next t := by
    intro n
    rcases readCommand_cases n s with ⟨-, hc⟩ | ⟨h1, h2, hc⟩ | ⟨-, -, hc⟩
    · exact ⟨_, hc⟩
    · omega
    · exact ⟨_, hc⟩
  cases i with
  | curRead8 => exact hr 1
  | curRead16 => exact hr 2
  | curRead32 => exact hr 4
  | curSkip n => rcases execCurSkip_cases n s with ⟨-, hc⟩ | ⟨-, hc⟩ <;> exact ⟨_, hc⟩
  | cfgSetPort _ => exact ⟨_, rfl⟩
  | curBind => exact ⟨_, rfl⟩
  | nfHeader => exact ⟨_, rfl⟩
  | nfRecords _ => exact ⟨_, rfl⟩
  | nfDecode => exact ⟨_, rfl⟩
  | processFrame => exact ⟨_, rfl⟩
  | enterNetwork => exact ⟨_, rfl⟩
  | enterTransport => exact ⟨_, rfl⟩

end Sys2Proof.Machine
end

