-- ==== Sys2Proof/Laws/PerInstr.lean ====
section
/-! SUPPORT. What holds of every command as syntax, one lemma for each constructor: the word of the command meets
R83's three conditions, and no bit of an operand is lost in it. -/

namespace Sys2Proof.Laws.EncodingFields

/-- The operand of a command, 0 where it takes none (R82). -/
def operand : Instr → Half
  | .cfgSetPort port => port
  | .curSkip n => n
  | .nfRecords count => count
  | .curBind | .curRead8 | .curRead16 | .curRead32 | .nfHeader | .nfDecode | .processFrame | .enterNetwork
  | .enterTransport => 0

/-- The word of a command is legal (R83), and its fields are RSV = 0 and IMM = the operand (R84). -/
def Statement (i : Instr) : Prop :=
  legalWord (encode i) = true ∧ (Command.ofWord (encode i)).rsv = 0 ∧ (Command.ofWord (encode i)).imm = operand i

/-- A packed word has RSV = 0 and the IMM it was packed from. -/
theorem packed (imm : Half) (op : Byte) : Command.ofWord (packWord imm op) = ⟨op, 0, imm⟩ := by
  simp [Command.ofWord, packWord_op, packWord_rsv, packWord_imm]

/-- The statement for a command with an operand. -/
theorem withOperand (imm : Half) {op : Byte} (h : (op, true) ∈ opTable) (h' : (op, false) ∉ opTable) :
    legalWord (packWord imm op) = true ∧ (Command.ofWord (packWord imm op)).rsv = 0 ∧
      (Command.ofWord (packWord imm op)).imm = imm := by
  rw [legalWord, packed]
  simp [Command.legal, Command.opKnown, Command.rsvZero, Command.operandAllowed, h, h']

theorem cfgSetPort (port : Half) : Statement (.cfgSetPort port) := withOperand port (by decide) (by decide)
theorem curBind : Statement .curBind := by unfold Statement; decide
theorem curRead8 : Statement .curRead8 := by unfold Statement; decide
theorem curRead16 : Statement .curRead16 := by unfold Statement; decide
theorem curRead32 : Statement .curRead32 := by unfold Statement; decide
theorem curSkip (n : Half) : Statement (.curSkip n) := withOperand n (by decide) (by decide)
theorem nfHeader : Statement .nfHeader := by unfold Statement; decide
theorem nfRecords (count : Half) : Statement (.nfRecords count) := withOperand count (by decide) (by decide)
theorem nfDecode : Statement .nfDecode := by unfold Statement; decide
theorem processFrame : Statement .processFrame := by unfold Statement; decide
theorem enterNetwork : Statement .enterNetwork := by unfold Statement; decide
theorem enterTransport : Statement .enterTransport := by unfold Statement; decide

end Sys2Proof.Laws.EncodingFields
end

