-- ==== Sys2Proof/Tests/Slice0.lean ====
section
/-! SUPPORT. Tests, their expected values taken from spec/95_test_vectors.md and the rules' own examples, and one
witness for the hypotheses of each statement that has some. -/

namespace Sys2Proof.Machine

/-! ## Test data (spec/95_test_vectors.md section 3) -/

/-- The state after RESET and LOAD_INBUF of the bytes. -/
def loaded (bytes : List Byte) : State := State.reset.loadInbuf bytes

/-- `loaded`, with the user cursor bound to all of INBUF and at `pos`. -/
def bound (bytes : List Byte) (pos : Word) : State :=
  { loaded bytes with curLen := BitVec.ofNat 32 bytes.length, curPos := pos }

/-- A state with one host action waiting. -/
def waiting (action : HostAction) : State := { State.reset with host := [action] }

/-- The state a step goes on to. -/
def goesTo : Host.Outcome State Fault Refusal → Option State
  | .next t => some t
  | _ => none

/-- `(S, T, A, B, C)` of the vectors. -/
def State.report (s : State) : Nat × Nat × Nat × Nat × Nat :=
  (s.status.toNat, s.errStage.toNat, s.errA.toNat, s.errB.toNat, s.errC.toNat)

/-- `(S, T, A, B, C)` after a command. -/
def reportOf (i : Instr) (s : State) : Option (Nat × Nat × Nat × Nat × Nat) := (goesTo (exec i s)).map State.report

/-- `CUR_DATA` and `CUR_POS` after a command. -/
def cursorOf (i : Instr) (s : State) : Option (Word × Word) := (goesTo (exec i s)).map fun t => (t.curData, t.curPos)

/-- F1 bytes 0 to 13. -/
def f1Ethernet : List Byte :=
  [0x00, 0x11, 0x22, 0x33, 0x44, 0x55, 0x66, 0x77, 0x88, 0x99, 0xAA, 0xBB, 0x08, 0x00]

/-- F1 bytes 14 to 33. -/
def f1Ipv4 : List Byte :=
  [0x45, 0x00, 0x00, 0x94, 0x00, 0x01, 0x40, 0x00, 0x40, 0x11, 0xB7, 0x04, 0xC0, 0xA8, 0x01, 0x01, 0xC0, 0xA8, 0x01, 0x02]

/-- F1 bytes 34 to 41. -/
def f1Udp : List Byte := [0x04, 0x00, 0x25, 0x1C, 0x00, 0x80, 0x00, 0x00]

/-- F1 bytes 42 to 65, the header `H`. -/
def f1Header : List Byte :=
  [0x00, 0x05, 0x00, 0x02, 0x00, 0x00, 0x01, 0xF4, 0x00, 0x00, 0x03, 0xE8, 0x00, 0x00, 0x00, 0x00, 0x00, 0x00, 0x00, 0x2A,
   0x01, 0x02, 0x00, 0x00]

/-- F1 bytes 66 to 113, record 0, its three skipped bytes as given. -/
def f1Record0 (padding trailing0 trailing1 : Byte) : List Byte :=
  [0x0A, 0x00, 0x00, 0x01, 0x0A, 0x00, 0x00, 0x02, 0x00, 0x00, 0x00, 0x00, 0x00, 0x01, 0x00, 0x02, 0x00, 0x00, 0x00, 0x0A,
   0x00, 0x00, 0x03, 0xE8, 0x00, 0x00, 0x00, 0x64, 0x00, 0x00, 0x01, 0x2C, 0x30, 0x39, 0x00, 0x50, padding, 0x1B, 0x06, 0x00,
   0xFD, 0xE8, 0xFD, 0xE9, 0x18, 0x18, trailing0, trailing1]

/-- F1 bytes 114 to 161, record 1. -/
def f1Record1 : List Byte :=
  [0xC0, 0xA8, 0x01, 0x0A, 0x08, 0x08, 0x08, 0x08, 0xC0, 0xA8, 0x01, 0x01, 0x00, 0x03, 0x00, 0x04, 0x00, 0x00, 0x00, 0x01,
   0x00, 0x00, 0x00, 0x48, 0x00, 0x00, 0x00, 0xC8, 0x00, 0x00, 0x00, 0xC8, 0xD4, 0x31, 0x00, 0x35, 0x00, 0x00, 0x11, 0xB8,
   0x00, 0x00, 0x3B, 0x41, 0x10, 0x08, 0x00, 0x00]

/-- The Netflow payload of F1. -/
def f1Payload : List Byte := f1Header ++ f1Record0 0xFF 0xAA 0xBB ++ f1Record1

/-- The UDP datagram of F1. -/
def f1Datagram : List Byte := f1Udp ++ f1Payload

/-- The IPv4 packet of F1. -/
def f1Packet : List Byte := f1Ipv4 ++ f1Datagram

/-- F1. -/
def f1 : List Byte := f1Ethernet ++ f1Packet

/-- `REC[0]` of program P1. -/
def p1Record0 : FlowRecord :=
  ⟨0x0A000001, 0x0A000002, 0, 1, 2, 10, 1000, 100, 300, 12345, 80, 0x1B, 6, 0, 65000, 65001, 24, 24⟩

/-- `REC[1]` of program P1. -/
def p1Record1 : FlowRecord :=
  ⟨0xC0A8010A, 0x08080808, 0xC0A80101, 3, 4, 1, 72, 200, 200, 54321, 53, 0, 17, 0xB8, 0, 15169, 16, 8⟩

/-- Program P1's end state, from the state before its last command: the status group, the header, the boot time and the
two records. -/
def State.p1End (s : State) : State :=
  s.decoded (some (⟨5, 2, 500, 1000, 0, 42, 1, 2, 0⟩, 999500000000)) [p1Record0, p1Record1]

/-! ## Legality: a word that each check of R83 refuses -/

theorem test_legal_word : legalWord 0x251C0001 = true := by decide
theorem test_opKnown_refuses : (Command.ofWord 0x00000015).opKnown = false ∧ legalWord 0x00000015 = false := by decide
theorem test_rsvZero_refuses : (Command.ofWord 0x00000130).rsvZero = false ∧ legalWord 0x00000130 = false := by decide
theorem test_operandAllowed_refuses :
    (Command.ofWord 0xFFFF0022).operandAllowed = false ∧ legalWord 0xFFFF0022 = false := by decide

/-! ## Decoding: words written out bit by bit, IMM then RSV then OP (R80, R81) -/

theorem test_decode_cfgSetPort : decode 0b0010010100011100_00000000_00000001 = .ok (.cfgSetPort 9500) := by decide
theorem test_decode_curBind : decode 0b0000000000000000_00000000_00010000 = .ok .curBind := by decide
theorem test_decode_curRead8 : decode 0b0000000000000000_00000000_00010001 = .ok .curRead8 := by decide
theorem test_decode_curRead16 : decode 0b0000000000000000_00000000_00010010 = .ok .curRead16 := by decide
theorem test_decode_curRead32 : decode 0b0000000000000000_00000000_00010011 = .ok .curRead32 := by decide
theorem test_decode_curSkip : decode 0b1111111111111111_00000000_00010100 = .ok (.curSkip 65535) := by decide
theorem test_decode_nfHeader : decode 0b0000000000000000_00000000_00100000 = .ok .nfHeader := by decide
theorem test_decode_nfRecords : decode 0b0000000000000011_00000000_00100001 = .ok (.nfRecords 3) := by decide
theorem test_decode_nfDecode : decode 0b0000000000000000_00000000_00100010 = .ok .nfDecode := by decide
theorem test_decode_processFrame : decode 0b0000000000000000_00000000_00110000 = .ok .processFrame := by decide
theorem test_decode_enterNetwork : decode 0b0000000000000000_00000000_00110001 = .ok .enterNetwork := by decide
theorem test_decode_enterTransport : decode 0b0000000000000000_00000000_00110010 = .ok .enterTransport := by decide
theorem test_decodeTableWord : decodeTableWord 32 0x000C0014 = some (.curSkip 12) ∧
    decodeTableWord 16 0x0014 = some (.curSkip 0) ∧ decodeTableWord 32 0x00000033 = none ∧
    decodeTableWord 40 0x00000030 = none := by decide

/-- R84's forms of a line: an operand in either base or left out, LOAD_INBUF, RESET, WORD and a comment. -/
theorem test_assemble :
    assemble ["RESET".toList, "LOAD_INBUF AB cd ; two bytes".toList, "CUR_SKIP 0x0C".toList, "CUR_SKIP".toList,
      "WORD 0x00000130".toList, "; nothing".toList] =
    some [.reset, .loadInbuf [0xAB, 0xCD], .command 0x000C0014, .command 0x00000014, .command 0x00000130] := by decide

/-- The digits of each base, in either case, and the signs beside them that are no digits. -/
theorem test_digits : number 65536 "0xfFfF".toList = some 65535 ∧ number 65536 "9500".toList = some 9500 ∧
    number 65536 "65536".toList = none ∧ number 65536 "1A".toList = none ∧ number 65536 "0xG".toList = none ∧
    number 65536 "0x".toList = none ∧ hexBytes "0Ff0".toList = some [0x0F, 0xF0] ∧ hexBytes "0:".toList = none ∧
    hexBytes "0g".toList = none := by decide

/-! ## One step of each command -/

/-- V-CT-2's first part. -/
theorem test_cfgSetPort : (goesTo (exec (.cfgSetPort 2055) State.reset)).map State.cfgPort = some 2055 := by decide

/-- V-CUR-12. -/
theorem test_curBind : (goesTo (exec .curBind (bound [1, 2, 3, 4, 5] 3))).map
    (fun t => (t.curLen, t.curPos, t.curData)) = some (5, 0, 0) := by decide

/-- V-CUR-2 and V-CUR-3. -/
theorem test_curRead8 : cursorOf .curRead8 (bound [0xAB, 0xCD] 1) = some (0x000000CD, 2) := by decide
theorem test_curRead8_end : reportOf .curRead8 (bound [0xAB, 0xCD] 2) = some (1, 5, 2, 1, 2) := by decide

/-- V-CUR-4 and V-CUR-5. -/
theorem test_curRead16 : cursorOf .curRead16 (bound [1, 2, 3] 1) = some (0x00000203, 3) := by decide
theorem test_curRead16_end : reportOf .curRead16 (bound [1, 2, 3] 2) = some (1, 5, 2, 2, 3) := by decide

/-- V-CUR-6 and V-CUR-7. -/
theorem test_curRead32 : cursorOf .curRead32 (bound [0xFF, 0xFF, 0xFF, 0xFF] 0) = some (0xFFFFFFFF, 4) := by decide
theorem test_curRead32_end : reportOf .curRead32 (bound [1, 2, 3, 4, 5] 2) = some (1, 5, 2, 4, 5) := by decide

/-- V-CUR-8 and V-CUR-9. -/
theorem test_curSkip : cursorOf (.curSkip 5) (bound [1, 2, 3, 4, 5] 0) = some (0, 5) := by decide
theorem test_curSkip_end : reportOf (.curSkip 1) (bound [1, 2, 3, 4, 5] 5) = some (1, 5, 5, 1, 5) := by decide

/-- V-NF-25 with V-NF-30's boot time, and V-NF-21. -/
theorem test_nfHeader : goesTo (exec .nfHeader (loaded f1Header)) = some ((loaded f1Header).decoded
    (some (⟨5, 2, 500, 1000, 0, 42, 1, 2, 0⟩, 999500000000)) []) := by decide +kernel
theorem test_nfHeader_short : reportOf .nfHeader (loaded (f1Header.take 20)) = some (2, 4, 20, 1, 20) := by
  decide +kernel

/-- R161's example, on F1's payload. -/
theorem test_nfRecords : (goesTo (exec (.nfRecords 2) (loaded f1Payload))).map (fun t => (t.hdrValid, t.recs)) =
    some (false, [p1Record0, p1Record1]) := by decide +kernel
theorem test_nfRecords_cut : reportOf (.nfRecords 3) (loaded f1Payload) = some (4, 4, 2, 3, 120) := by decide +kernel

/-- P6's second decode, and its third. -/
theorem test_nfDecode : goesTo (exec .nfDecode (loaded f1Payload)) = some (loaded f1Payload).p1End := by decide +kernel
theorem test_nfDecode_cut : reportOf .nfDecode (loaded (f1Payload.take 119)) = some (4, 4, 1, 2, 119) := by
  decide +kernel

/-- V-DX-41 and V-DX-45. -/
theorem test_enterTransport : goesTo (exec .enterTransport (loaded f1Datagram)) = some (loaded f1Datagram).p1End := by
  decide +kernel
theorem test_enterTransport_short : reportOf .enterTransport (loaded (f1Datagram.take 7)) = some (1, 3, 0, 8, 7) := by
  decide +kernel

/-- V-DX-40, and V-DX-43: the header length check comes before the protocol check. -/
theorem test_enterNetwork : goesTo (exec .enterNetwork (loaded f1Packet)) = some (loaded f1Packet).p1End := by
  decide +kernel
theorem test_enterNetwork_order :
    reportOf .enterNetwork (loaded (((f1Packet.take 40).set 0 0x4F).set 9 0x06)) = some (1, 2, 20, 40, 40) := by
  decide +kernel

/-- P1, and V-DX-36. -/
theorem test_processFrame : goesTo (exec .processFrame (loaded f1)) = some (loaded f1).p1End := by decide +kernel
theorem test_processFrame_cut : reportOf .processFrame (loaded (f1.set 45 3)) = some (4, 4, 2, 3, 120) := by
  decide +kernel

/-- V-BT-2: the boot time wraps. -/
theorem test_bootTime_wraps : bootTime ⟨5, 0, 1, 0, 0, 0, 0, 0, 0⟩ = 18446744073708551616 := by decide

/-- A word placed where the next step takes it runs from reset (section 2.1). -/
theorem test_placed_word : (goesTo (step (State.reset.withFetchWord 32 0x08070001))).map State.cfgPort = some 2055 := by
  decide

/-- Section 2.1: the illegal word 0x00000101 reports itself, and CFG_PORT is unchanged. -/
theorem test_illegal_word : (goesTo (step (State.reset.withFetchWord 32 0x00000101))).map
    (fun t => (t.report, t.cfgPort)) = some ((15, 0, 0x101, 0, 0), 9500) := by decide

/-! ## Witnesses: concrete states that meet the hypotheses of the statements -/

/-- A step that goes on to a state. -/
theorem eq_next {x : Host.Outcome State Fault Refusal} {t : State} (h : goesTo x = some t) : x = .next t := by
  cases x with
  | next s => cases h; rfl
  | fault r => cases h
  | refused r => cases h

/-- Two buffers of one length below `n` hold the same bytes, if they do at every address below `n`. -/
theorem same_bytes {s t : State} {n : Nat} (hs : s.inbufLen.toNat ≤ n) (ht : t.inbufLen.toNat ≤ n)
    (h : ∀ a, a < n → s.readByte a = t.readByte a) (a : Nat) : s.readByte a = t.readByte a := by
  rcases Nat.lt_or_ge a n with ha | ha
  · exact h a ha
  · rw [State.readByte_of_le (Nat.le_trans hs ha), State.readByte_of_le (Nat.le_trans ht ha)]

/-- A buffer is another one without its first `k` bytes, if it is at every address below `n`. -/
theorem shifted_bytes {s t : State} {n k : Nat} (hs : s.inbufLen.toNat ≤ n + k) (ht : t.inbufLen.toNat ≤ n)
    (h : ∀ a, a < n → t.readByte a = s.readByte (a + k)) (a : Nat) : t.readByte a = s.readByte (a + k) := by
  rcases Nat.lt_or_ge a n with ha | ha
  · exact h a ha
  · rw [State.readByte_of_le (Nat.le_trans ht ha), State.readByte_of_le (by omega)]

theorem witness_DecodedWordIsItsCommandsWord : decode 0x251C0001 = .ok (.cfgSetPort 9500) := by decide

theorem witness_WordRunsOrIsIllegal_legal :
    (waiting (.command 0xFFFF0014)).host = .command 0xFFFF0014 :: [] ∧
      (0xFFFF0014#32).extractLsb' 0 8 ∈ [0x01#8, 0x10#8, 0x11#8, 0x12#8, 0x13#8, 0x14#8, 0x20#8, 0x21#8, 0x22#8, 0x30#8, 0x31#8, 0x32#8] ∧
      (0xFFFF0014#32).extractLsb' 8 8 = 0 ∧
      ((0xFFFF0014#32).extractLsb' 0 8 ∉ [0x01#8, 0x14#8, 0x21#8] → (0xFFFF0014#32).extractLsb' 16 16 = 0) := by decide
theorem witness_WordRunsOrIsIllegal_illegal :
    (waiting (.command 0x00010030)).host = .command 0x00010030 :: [] ∧
      ¬ ((0x00010030#32).extractLsb' 0 8 ∉ [0x01#8, 0x14#8, 0x21#8] → (0x00010030#32).extractLsb' 16 16 = 0) := by decide

theorem witness_StepRunsTheDecodedCommand :
    (waiting (.command 0x00000010)).host = .command 0x00000010 :: [] ∧ decode 0x00000010 = .ok .curBind := by decide

theorem witness_HostActionsAreTakenInOrder : step (waiting (.command 0x00000030)) =
    .next (State.reset.rejected 1 1 0 14 0) := eq_next (by decide)

theorem witness_IdleHostLeavesTheStateAlone : State.reset.host = [] := rfl

theorem witness_ResetSetsEveryRegister : { waiting .reset with cfgPort := 2055 }.host = .reset :: [] := rfl

/-- The largest load: MAX_FRAME_LEN bytes. -/
theorem witness_LoadInbufReplacesInbuf :
    (waiting (.loadInbuf (List.replicate Config.maxFrameLen.toNat 0xAB))).host =
      .loadInbuf (List.replicate Config.maxFrameLen.toNat 0xAB) :: [] ∧
    (List.replicate Config.maxFrameLen.toNat (0xAB : Byte)).length ≤ Config.maxFrameLen.toNat :=
  ⟨rfl, Nat.le_of_eq List.length_replicate⟩
theorem witness_LoadInbufReplacesInbuf_command :
    exec (.cfgSetPort 2055) (loaded [1]) = .next { loaded [1] with cfgPort := 2055 } := eq_next (by decide)

theorem witness_LoadInbufReplacesInbuf_other :
    (∀ bytes, (waiting (.command 0x00000030)).host.head? ≠ some (.loadInbuf bytes)) ∧
    (waiting (.command 0x00000030)).host.head? ≠ some .reset ∧
    step (waiting (.command 0x00000030)) = .next (State.reset.rejected 1 1 0 14 0) :=
  ⟨by simp [waiting], by simp [waiting], eq_next (by decide)⟩

/-- The smallest load over the limit, and the empty one. -/
theorem witness_LoadInbufOverTheLimitHasNoMove_over :
    (waiting (.loadInbuf (List.replicate (Config.maxFrameLen.toNat + 1) 0))).host =
      .loadInbuf (List.replicate (Config.maxFrameLen.toNat + 1) 0) :: [] ∧
    Config.maxFrameLen.toNat < (List.replicate (Config.maxFrameLen.toNat + 1) (0 : Byte)).length :=
  ⟨rfl, by rw [List.length_replicate]; exact Nat.lt_succ_self _⟩
theorem witness_LoadInbufOverTheLimitHasNoMove_empty :
    (waiting (.loadInbuf [])).host = .loadInbuf [] :: [] ∧ ([] : List Byte).length ≤ Config.maxFrameLen.toNat :=
  ⟨rfl, Nat.zero_le _⟩

theorem witness_HostReadsChangeNothing_register :
    (waiting (.read (.register .cfgPort))).host = .read (.register .cfgPort) :: [] ∧
      HostRegister.cfgPort ≠ .commandPort := by decide
theorem witness_HostReadsChangeNothing_inbuf :
    { loaded [1, 2] with host := [.read (.inbufByte 1)] }.host = .read (.inbufByte 1) :: [] ∧
      1 < { loaded [1, 2] with host := [.read (.inbufByte 1)] }.inbufLen.toNat := by decide
theorem witness_HostReadsChangeNothing_record :
    { State.reset.p1End with host := [.read (.recField 1 .tos)] }.host = .read (.recField 1 .tos) :: [] ∧
      1 < { State.reset.p1End with host := [.read (.recField 1 .tos)] }.recCount.toNat ∧
      1 < { State.reset.p1End with host := [.read (.recField 1 .tos)] }.recs.length := by decide

theorem witness_HostActionsWithNoMoveStop_write :
    (waiting (.writeRegister .cfgPort 2055)).host = .writeRegister .cfgPort 2055 :: [] := rfl
theorem witness_HostActionsWithNoMoveStop_port :
    (waiting (.read (.register .commandPort))).host = .read (.register .commandPort) :: [] := rfl
theorem witness_HostActionsWithNoMoveStop_inbuf :
    { loaded [1, 2] with host := [.read (.inbufByte 2)] }.host = .read (.inbufByte 2) :: [] ∧
      { loaded [1, 2] with host := [.read (.inbufByte 2)] }.inbufLen.toNat ≤ 2 := by decide
theorem witness_HostActionsWithNoMoveStop_record :
    { State.reset.p1End with host := [.read (.recField 2 .tos)] }.host = .read (.recField 2 .tos) :: [] ∧
      { State.reset.p1End with host := [.read (.recField 2 .tos)] }.recCount.toNat ≤ 2 := by decide

theorem witness_CanonicalInbufIsDeterminedByItsBytes :
    Inbuf.wf [(3, 7)] = true ∧ Inbuf.wf (Inbuf.ofBytes [0, 0, 0, 7]) = true ∧
      ∀ a, Inbuf.byteAt [(3, 7)] a = (Inbuf.ofBytes [0, 0, 0, 7]).byteAt a := ⟨by decide, by decide, fun _ => rfl⟩

theorem witness_Read8ReadsOneByteOrReports :
    ((bound [0xAB, 0xCD] 1).readByte 1 = some 0xCD ∧
      (bound [0xAB, 0xCD] 1).curPos.toNat + 1 ≤ (bound [0xAB, 0xCD] 1).curLen.toNat) ∧
    (bound [0xAB, 0xCD] 2).curLen.toNat < (bound [0xAB, 0xCD] 2).curPos.toNat + 1 := by decide
theorem witness_Read16ReadsBigEndianOrReports :
    ((bound [1, 2, 3] 1).readByte 1 = some 2 ∧ (bound [1, 2, 3] 1).readByte 2 = some 3 ∧
      (bound [1, 2, 3] 1).curPos.toNat + 2 ≤ (bound [1, 2, 3] 1).curLen.toNat) ∧
    (bound [1, 2, 3] 2).curLen.toNat < (bound [1, 2, 3] 2).curPos.toNat + 2 := by decide
theorem witness_Read32ReadsBigEndianOrReports :
    ((bound [1, 2, 3, 4, 5] 1).readByte 1 = some 2 ∧ (bound [1, 2, 3, 4, 5] 1).readByte 2 = some 3 ∧
      (bound [1, 2, 3, 4, 5] 1).readByte 3 = some 4 ∧ (bound [1, 2, 3, 4, 5] 1).readByte 4 = some 5 ∧
      (bound [1, 2, 3, 4, 5] 1).curPos.toNat + 4 ≤ (bound [1, 2, 3, 4, 5] 1).curLen.toNat) ∧
    (bound [1, 2, 3, 4, 5] 2).curLen.toNat < (bound [1, 2, 3, 4, 5] 2).curPos.toNat + 4 := by decide
theorem witness_SkipMovesInsideTheSliceOrReports :
    (bound [1, 2, 3, 4, 5] 0).curPos.toNat + (5 : Half).toNat ≤ (bound [1, 2, 3, 4, 5] 0).curLen.toNat ∧
    (bound [1, 2, 3, 4, 5] 0).curLen.toNat < (bound [1, 2, 3, 4, 5] 0).curPos.toNat + (6 : Half).toNat := by decide

/-- A state that no run reaches: the slice of 8 bytes is longer than INBUF, of 1 byte. -/
theorem witness_CursorReadBeyondInbufFaults :
    (({ bound [1] 1 with curLen := 8 }).curPos.toNat + 1 ≤ ({ bound [1] 1 with curLen := 8 }).curLen.toNat ∧
      ({ bound [1] 1 with curLen := 8 }).inbufLen.toNat < ({ bound [1] 1 with curLen := 8 }).curPos.toNat + 1) ∧
    (({ bound [1] 0 with curLen := 8 }).curPos.toNat + 2 ≤ ({ bound [1] 0 with curLen := 8 }).curLen.toNat ∧
      ({ bound [1] 0 with curLen := 8 }).inbufLen.toNat < ({ bound [1] 0 with curLen := 8 }).curPos.toNat + 2) ∧
    (({ bound [1] 0 with curLen := 8 }).curPos.toNat + 4 ≤ ({ bound [1] 0 with curLen := 8 }).curLen.toNat ∧
      ({ bound [1] 0 with curLen := 8 }).inbufLen.toNat < ({ bound [1] 0 with curLen := 8 }).curPos.toNat + 4) := by
  decide

theorem witness_NfHeaderDecodesOrNamesTheFault :
    (loaded (f1Header.take 23)).inbufLen.toNat < 24 ∧
    (24 ≤ (loaded (f1Header.set 1 9)).inbufLen.toNat ∧ (loaded (f1Header.set 1 9)).inbuf.u16 0 ≠ 5) ∧
    (24 ≤ (loaded f1Header).inbufLen.toNat ∧ (loaded f1Header).inbuf.u16 0 = 5) := by decide

/-- The two sides of the wrap, the boundary among them. -/
theorem witness_BootTimeIsWallClockLessUptime :
    (1 : Word).toNat * 1000000 ≤ (0 : Word).toNat * 1000000000 + (1000000 : Word).toNat ∧
    (0 : Word).toNat * 1000000000 + (999999 : Word).toNat < (1 : Word).toNat * 1000000 := by decide

theorem witness_RecordsDecodeOrTheFirstCutIsNamed :
    (1 = 0 ∨ 24 + 48 * 1 ≤ (Window.mk 42 72).len) ∧ (1 ≠ 0 ∧ (Window.mk 42 71).len < 24 + 48 * 1) := by decide

theorem witness_NfRecordsDecodesOrNamesTheCut :
    ((2 : Half) = 0 ∨ 24 + 48 * (2 : Half).toNat ≤ (loaded f1Payload).inbufLen.toNat) ∧
    ((3 : Half) ≠ 0 ∧ (loaded f1Payload).inbufLen.toNat < 24 + 48 * (3 : Half).toNat) := by decide +kernel

theorem witness_NfDecodeDecodesAWholeMessage :
    MessageWhole (loaded f1Payload).inbuf 0 (loaded f1Payload).inbufLen.toNat := by unfold MessageWhole; decide +kernel

/-- F1 against F1 with a frame check sequence behind it (V-DX-18). -/
theorem witness_TrailingBytesAreIgnored :
    Instr.processFrame ∈ [Instr.nfDecode, .enterTransport, .enterNetwork, .processFrame] ∧
    exec .processFrame (loaded f1) = .next (loaded f1).p1End ∧ (loaded f1).p1End.status = 0 ∧
    (loaded f1).cfgPort = (loaded (f1 ++ [0xDE, 0xAD, 0xBE, 0xEF])).cfgPort ∧
    payloadStart (loaded f1).inbuf .processFrame + 24 +
        48 * (loaded f1).inbuf.u16 (payloadStart (loaded f1).inbuf .processFrame + 2) = 162 ∧
    162 ≤ (loaded (f1 ++ [0xDE, 0xAD, 0xBE, 0xEF])).inbufLen.toNat ∧
    (∀ a, a < 162 → (loaded f1).readByte a = (loaded (f1 ++ [0xDE, 0xAD, 0xBE, 0xEF])).readByte a) :=
  ⟨by decide, eq_next test_processFrame, rfl, rfl, by decide +kernel, by decide +kernel, by decide +kernel⟩

/-- F1's payload with its padding FF, AA, BB and with all three bytes 0 (V-NF-45). -/
theorem witness_PaddingBytesHaveNoEffect :
    decodeClass .nfDecode = true ∧
    (loaded f1Payload).inbufLen = (loaded (f1Header ++ f1Record0 0 0 0 ++ f1Record1)).inbufLen ∧
    (loaded f1Payload).cfgPort = (loaded (f1Header ++ f1Record0 0 0 0 ++ f1Record1)).cfgPort ∧
    (∀ a, ¬ SkippedByte (payloadStart (loaded f1Payload).inbuf .nfDecode) a →
      (loaded f1Payload).readByte a = (loaded (f1Header ++ f1Record0 0 0 0 ++ f1Record1)).readByte a) ∧
    (loaded f1Payload).readByte 60 ≠ (loaded (f1Header ++ f1Record0 0 0 0 ++ f1Record1)).readByte 60 := by
  refine ⟨rfl, rfl, rfl, ?_, by decide +kernel⟩
  have h : ∀ a, a < 120 → ¬ SkippedByte 0 a →
      (loaded f1Payload).readByte a = (loaded (f1Header ++ f1Record0 0 0 0 ++ f1Record1)).readByte a := by
    unfold SkippedByte
    decide +kernel
  intro a ha
  rcases Nat.lt_or_ge a 120 with hl | hl
  · exact h a hl ha
  · rw [State.readByte_of_le (Nat.le_trans (by decide +kernel) hl),
      State.readByte_of_le (Nat.le_trans (by decide +kernel) hl)]

theorem witness_EnterTransportDecodesADatagram :
    (loaded f1Datagram).inbuf.u16 2 = (loaded f1Datagram).cfgPort.toNat ∧ 8 ≤ (loaded f1Datagram).inbufLen.toNat ∧
    MessageWhole (loaded f1Datagram).inbuf 8 ((loaded f1Datagram).inbufLen.toNat - 8) := by
  unfold MessageWhole
  decide +kernel

theorem witness_EnterNetworkDecodesAPacket :
    20 ≤ 4 * ((loaded f1Packet).inbuf.u8 0 % 16) ∧ (loaded f1Packet).inbuf.u8 9 = 17 ∧
    (loaded f1Packet).inbuf.u16 (4 * ((loaded f1Packet).inbuf.u8 0 % 16) + 2) = (loaded f1Packet).cfgPort.toNat ∧
    4 * ((loaded f1Packet).inbuf.u8 0 % 16) + 8 ≤ (loaded f1Packet).inbufLen.toNat ∧
    MessageWhole (loaded f1Packet).inbuf (4 * ((loaded f1Packet).inbuf.u8 0 % 16) + 8)
      ((loaded f1Packet).inbufLen.toNat - (4 * ((loaded f1Packet).inbuf.u8 0 % 16) + 8)) := by
  unfold MessageWhole
  decide +kernel

theorem witness_ProcessFrameDecodesAFrame :
    (loaded f1).inbuf.u16 12 = 0x0800 ∧ 20 ≤ 4 * ((loaded f1).inbuf.u8 14 % 16) ∧ (loaded f1).inbuf.u8 23 = 17 ∧
    (loaded f1).inbuf.u16 (14 + 4 * ((loaded f1).inbuf.u8 14 % 16) + 2) = (loaded f1).cfgPort.toNat ∧
    14 + 4 * ((loaded f1).inbuf.u8 14 % 16) + 8 ≤ (loaded f1).inbufLen.toNat ∧
    MessageWhole (loaded f1).inbuf (14 + 4 * ((loaded f1).inbuf.u8 14 % 16) + 8)
      ((loaded f1).inbufLen.toNat - (14 + 4 * ((loaded f1).inbuf.u8 14 % 16) + 8)) := by
  unfold MessageWhole
  decide +kernel

theorem witness_TheFirstErrorIsReported :
    payloadRejection (loaded (f1Payload.take 119)).inbuf 0 119 = some (4, 4, 1, 2, 119) ∧
    datagramRejection (loaded (f1Datagram.take 7)).inbuf 9500 0 7 = some (1, 3, 0, 8, 7) ∧
    packetRejection (loaded (f1Packet.set 0 0x43)).inbuf 9500 0 148 = some (2, 2, 3, 0, 148) ∧
    frameRejection (loaded (f1.set 12 0x86)).inbuf 9500 0 162 = some (5, 1, 0x8600, 0, 0) ∧
    legalWord 0x00000101 = false :=
  ⟨by decide +kernel, by decide +kernel, by decide +kernel, by decide +kernel, by decide⟩

/-- Frames that differ only behind the bytes read: of type 8600, of protocol 6, for port 2055. -/
theorem witness_ARejectedFrameIsNotReadFurther_link :
    (loaded (f1.set 12 0x86)).inbufLen = (loaded ((f1.set 12 0x86).set 14 0)).inbufLen ∧
    (loaded (f1.set 12 0x86)).cfgPort = (loaded ((f1.set 12 0x86).set 14 0)).cfgPort ∧
    exec .processFrame (loaded (f1.set 12 0x86)) = .next ((loaded (f1.set 12 0x86)).rejected 5 1 0x8600 0 0) ∧
    ((loaded (f1.set 12 0x86)).rejected 5 1 0x8600 0 0).errStage = 1 ∧
    ∀ a ∈ [12, 13], (loaded (f1.set 12 0x86)).readByte a = (loaded ((f1.set 12 0x86).set 14 0)).readByte a :=
  ⟨by decide +kernel, rfl, eq_next (by decide +kernel), rfl, by decide +kernel⟩
theorem witness_ARejectedFrameIsNotReadFurther_network :
    (loaded (f1.set 23 6)).inbufLen = (loaded ((f1.set 23 6).set 36 0)).inbufLen ∧
    (loaded (f1.set 23 6)).cfgPort = (loaded ((f1.set 23 6).set 36 0)).cfgPort ∧
    exec .processFrame (loaded (f1.set 23 6)) = .next ((loaded (f1.set 23 6)).rejected 6 2 6 0 0) ∧
    ((loaded (f1.set 23 6)).rejected 6 2 6 0 0).errStage = 2 ∧
    ∀ a ∈ [12, 13, 14, 23], (loaded (f1.set 23 6)).readByte a = (loaded ((f1.set 23 6).set 36 0)).readByte a :=
  ⟨by decide +kernel, rfl, eq_next (by decide +kernel), rfl, by decide +kernel⟩
theorem witness_ARejectedFrameIsNotReadFurther_transport :
    (loaded (f1.set 37 0)).inbufLen = (loaded ((f1.set 37 0).set 43 9)).inbufLen ∧
    (loaded (f1.set 37 0)).cfgPort = (loaded ((f1.set 37 0).set 43 9)).cfgPort ∧
    exec .processFrame (loaded (f1.set 37 0)) = .next ((loaded (f1.set 37 0)).rejected 7 3 0x2500 9500 0) ∧
    ((loaded (f1.set 37 0)).rejected 7 3 0x2500 9500 0).errStage = 3 ∧
    14 + 4 * ((loaded (f1.set 37 0)).inbuf.u8 14 % 16) = 34 ∧
    ∀ a ∈ [12, 13, 14, 23, 34 + 2, 34 + 3],
      (loaded (f1.set 37 0)).readByte a = (loaded ((f1.set 37 0).set 43 9)).readByte a :=
  ⟨by decide +kernel, rfl, eq_next (by decide +kernel), rfl, by decide +kernel, by decide +kernel⟩

theorem witness_EnterNetworkMatchesProcessFrame :
    (loaded f1).inbuf.u16 12 = 0x0800 ∧ (loaded f1).inbufLen.toNat = (loaded f1Packet).inbufLen.toNat + 14 ∧
    (∀ a, (loaded f1Packet).readByte a = (loaded f1).readByte (a + 14)) ∧
    (loaded f1).cfgPort = (loaded f1Packet).cfgPort :=
  ⟨by decide +kernel, by decide +kernel,
    shifted_bytes (n := 148) (by decide +kernel) (by decide +kernel) (by decide +kernel), rfl⟩
theorem witness_EnterTransportMatchesEnterNetwork :
    4 * ((loaded f1Packet).inbuf.u8 0 % 16) = 20 ∧ 20 ≤ 20 ∧ (loaded f1Packet).inbuf.u8 9 = 17 ∧
    (loaded f1Packet).inbufLen.toNat = (loaded f1Datagram).inbufLen.toNat + 20 ∧
    (∀ a, (loaded f1Datagram).readByte a = (loaded f1Packet).readByte (a + 20)) ∧
    (loaded f1Packet).cfgPort = (loaded f1Datagram).cfgPort :=
  ⟨by decide +kernel, by decide, by decide +kernel, by decide +kernel,
    shifted_bytes (n := 128) (by decide +kernel) (by decide +kernel) (by decide +kernel), rfl⟩
theorem witness_NfDecodeMatchesEnterTransport :
    (loaded f1Datagram).inbuf.u16 2 = (loaded f1Datagram).cfgPort.toNat ∧
    (loaded f1Datagram).inbufLen.toNat = (loaded f1Payload).inbufLen.toNat + 8 ∧
    ∀ a, (loaded f1Payload).readByte a = (loaded f1Datagram).readByte (a + 8) :=
  ⟨by decide +kernel, by decide +kernel,
    shifted_bytes (n := 120) (by decide +kernel) (by decide +kernel) (by decide +kernel)⟩

theorem witness_CommandsWriteOnlyTheirRegisters :
    (exec .nfDecode (loaded f1Payload) = .next (loaded f1Payload).p1End ∧ decodeClass .nfDecode = true) ∧
    (exec .curBind (loaded [1]) = .next { loaded [1] with curLen := 1 } ∧ cursorClass .curBind = true) ∧
    (exec (.cfgSetPort 2055) (loaded [1]) = .next { loaded [1] with cfgPort := 2055 } ∧
      Instr.cfgSetPort 2055 = .cfgSetPort 2055) :=
  ⟨⟨eq_next test_nfDecode, rfl⟩, ⟨eq_next (by decide), rfl⟩, ⟨eq_next (by decide), rfl⟩⟩

theorem witness_CommandsWriteOnlyTheirRegisters_illegal :
    legalWord 0x00010010 = false ∧
    executeWord 0x00010010 (bound [1, 2] 1) = .next ((bound [1, 2] 1).withStatus 15 0 0x10010 0 0) :=
  ⟨by decide, eq_next (by decide)⟩

theorem witness_CommandsReportOnlyTheirErrors :
    exec .nfDecode State.reset = .next (State.reset.rejected 2 4 0 2 0) ∧
    legalWord 0x00000101 = false ∧ executeWord 0x00000101 State.reset = .next (State.reset.withStatus 15 0 0x101 0 0) :=
  ⟨eq_next (by decide), by decide, eq_next (by decide)⟩

theorem witness_AFailedDecodeLeavesNoResult :
    decodeClass .nfDecode = true ∧ exec .nfDecode State.reset.p1End = .next (State.reset.rejected 2 4 0 2 0) ∧
    (State.reset.rejected 2 4 0 2 0).status ≠ 0 := ⟨rfl, eq_next (by decide), by decide⟩

theorem witness_EveryWordEndsInAListedStatus : (bound [1, 2] 2).CursorLegal := ⟨by decide, by decide⟩

/-- The same bytes and port, with an earlier result and an earlier error, and the cursor elsewhere. -/
theorem witness_DecodingDependsOnItsInputAlone :
    decodeClass .processFrame = true ∧ SameInput (loaded f1) (State.withStatus (bound f1 7).p1End 15 0 1 0 0) :=
  ⟨rfl, ⟨fun _ => rfl, rfl, rfl⟩⟩

theorem witness_EarlierOutcomesDoNotMatter : decodeClass .nfHeader = true := rfl

theorem witness_ARepeatedDecodeChangesNothing :
    decodeClass .nfDecode = true ∧ exec .nfDecode (loaded f1Payload) = .next (loaded f1Payload).p1End :=
  ⟨rfl, eq_next test_nfDecode⟩

/-- A state with a result, and PROCESS_FRAME waiting on an empty INBUF. -/
def holdsResult : State := { State.reset.p1End with host := [.command 0x00000030] }

theorem holdsResult_steps : step holdsResult = .next (State.reset.rejected 1 1 0 14 0) := eq_next (by decide)

theorem holdsResult_legal : holdsResult.Legal where
  cursor := ⟨by decide, by decide⟩
  result := ⟨by decide, by decide⟩
  header := ⟨by decide, by decide, by decide⟩
  status := ⟨by decide, by decide, by decide⟩
  inbuf := ⟨by decide, by decide, Nat.zero_le _⟩

theorem witness_StepKeepsTheCursorInItsSlice :
    holdsResult.CursorLegal ∧ step holdsResult = .next (State.reset.rejected 1 1 0 14 0) :=
  ⟨holdsResult_legal.cursor, holdsResult_steps⟩
theorem witness_StepKeepsTheResultGroupConsistent :
    holdsResult.ResultLegal ∧ step holdsResult = .next (State.reset.rejected 1 1 0 14 0) :=
  ⟨holdsResult_legal.result, holdsResult_steps⟩
theorem witness_StepKeepsTheStateLegal :
    holdsResult.Legal ∧ step holdsResult = .next (State.reset.rejected 1 1 0 14 0) :=
  ⟨holdsResult_legal, holdsResult_steps⟩
theorem witness_NoAllowedActionStopsTheMachine :
    holdsResult.Legal ∧ ∀ action rest, holdsResult.host = action :: rest → action.HasMove holdsResult :=
  ⟨holdsResult_legal, fun _ _ h => by cases h; trivial⟩

end Sys2Proof.Machine
end

section
/-! PROOFS. One step of the host: what each action does, and how a property of the block is carried through a step. -/

namespace Sys2Proof.Machine

/-- R216: a step is the effect of the host's first action on the state with that action taken (log entry 1). -/
theorem step_of_host {s : State} {action : HostAction} {rest : List HostAction} (h : s.host = action :: rest) :
    step s = hostAct action { s with host := rest } := by
  simp only [step, hostStep, h]

theorem hostAct_loadInbuf_of_le {bytes : List Byte} (s : State) (h : bytes.length ≤ Config.maxFrameLen.toNat) :
    hostAct (.loadInbuf bytes) s = .next (s.loadInbuf bytes) := if_pos h

theorem hostAct_loadInbuf_of_lt {bytes : List Byte} (s : State) (h : Config.maxFrameLen.toNat < bytes.length) :
    hostAct (.loadInbuf bytes) s = .refused .frameTooLong := if_neg (Nat.not_le.mpr h)

theorem hostAct_read_of_isSome {s : State} {target : ReadTarget} (h : (s.hostRead target).isSome = true) :
    hostAct (.read target) s = .next s := by
  obtain ⟨v, hv⟩ := Option.isSome_iff_exists.mp h
  simp only [hostAct, hostReadAction, hv]

/-- Every register but the write-only command port has a value to read (R35). -/
theorem State.registerValue_isSome (s : State) {r : HostRegister} (h : r ≠ .commandPort) :
    (s.registerValue r).isSome = true := by
  cases r
  case commandPort => exact absurd rfl h
  all_goals rfl

/-- A number no larger than a word is stored in a word as it stands (log entry 13). -/
theorem toNat_ofNat_of_le_word {n : Nat} {bound : Word} (h : n ≤ bound.toNat) : (BitVec.ofNat 32 n).toNat = n :=
  BitVec.toNat_ofNat .. ▸ Nat.mod_eq_of_lt (Nat.lt_of_le_of_lt h bound.isLt)

/-- A loaded INBUF reads as the byte sequence, and has no address beyond it (R22, R65). -/
theorem State.readByte_loadInbuf (s : State) {bytes : List Byte} (h : bytes.length ≤ Config.maxFrameLen.toNat)
    (a : Nat) : (s.loadInbuf bytes).readByte a = bytes[a]? := by
  have hlen : (s.loadInbuf bytes).inbufLen.toNat = bytes.length := toNat_ofNat_of_le_word h
  rcases Nat.lt_or_ge a bytes.length with ha | ha
  · rw [State.readByte_of_lt (hlen ▸ ha), State.loadInbuf_inbuf, Inbuf.byteAt_ofBytes]
    simp [ha]
  · rw [State.readByte_of_le (hlen ▸ ha), List.getElem?_eq_none ha]

/-- A property of the block that says nothing of the host's list, and that every action with a move keeps. -/
structure KeptByActions (P : State → Prop) : Prop where
  host    : ∀ {s : State} (rest : List HostAction), P s → P { s with host := rest }
  reset   : ∀ s : State, P s.resetAction
  load    : ∀ {s : State} {bytes : List Byte},
    bytes.length ≤ Config.maxFrameLen.toNat → P s → P (s.loadInbuf bytes)
  illegal : ∀ {s : State} (w : Word), P s → P (s.illegalCommand w)
  command : ∀ {i : Instr} {s t : State}, P s → exec i s = .next t → P t

/-- What every action keeps, every step keeps. -/
theorem KeptByActions.step {P : State → Prop} (kept : KeptByActions P) {s t : State} (hs : P s)
    (h : step s = .next t) : P t := by
  rcases step_cases h with ⟨-, rfl⟩ | ⟨_, rest, -, hact⟩
  · exact hs
  have hrest := kept.host rest hs
  rcases hact with ⟨-, rfl⟩ | ⟨_, -, hlen, rfl⟩ | ⟨_, -, rfl⟩ | ⟨_, -, ⟨-, rfl⟩ | ⟨_, -, hexec⟩⟩
  · exact kept.reset _
  · exact kept.load hlen hrest
  · exact hrest
  · exact kept.illegal _ hrest
  · exact kept.command hrest hexec

end Sys2Proof.Machine
end

section
/-! PROOFS. The invariants of the block's state (spec/10_state.md R25, R28, R32, R65): one fact for each effect a
command can have, and each part of a legal state kept by every action. -/

namespace Sys2Proof.Machine

@[simp] theorem State.commit_ok (s : State) (r : DecodeResult) : s.commit (.ok r) = s.commitOk r := rfl

@[simp] theorem State.commit_error (s : State) (e : PipelineError) : s.commit (.error e) = s.commitErr e := rfl

/-! ## The cursor (R25) -/

theorem CursorMove.cursorLegal {s t : State} (hs : s.CursorLegal) (h : CursorMove s t) : t.CursorLegal := by
  rcases h with ⟨_, _, _, rfl⟩ | ⟨_, pos, hpos, rfl⟩
  · exact ⟨hs.posInSlice, hs.sliceInInbuf⟩
  · exact ⟨by simpa [toNat_ofNat_of_le_word hpos] using hpos, hs.sliceInInbuf⟩

theorem exec_keeps_cursorLegal {i : Instr} {s t : State} (hs : s.CursorLegal) (h : exec i s = .next t) :
    t.CursorLegal := by
  rcases exec_cases h with ⟨-, r, rfl⟩ | ⟨_, -, rfl⟩ | ⟨-, rfl⟩ | ⟨-, -, hmove⟩
  · exact ⟨by simpa using hs.posInSlice, by simpa using hs.sliceInInbuf⟩
  · exact ⟨hs.posInSlice, hs.sliceInInbuf⟩
  · exact ⟨Nat.zero_le _, Nat.le_refl _⟩
  · exact hmove.cursorLegal hs

theorem cursorLegal_kept : KeptByActions State.CursorLegal where
  host _ hs := ⟨hs.posInSlice, hs.sliceInInbuf⟩
  reset _ := ⟨Nat.le_refl _, Nat.le_refl _⟩
  load _ _ := ⟨Nat.le_refl _, Nat.zero_le _⟩
  illegal _ hs := ⟨hs.posInSlice, hs.sliceInInbuf⟩
  command := exec_keeps_cursorLegal

/-! ## The result group (R32, R211, R236) -/

/-- What a command that goes on does to the result group: a decode-class command commits an error or a good result,
and every other command leaves the group alone. -/
theorem exec_result_cases {i : Instr} {s t : State} (h : exec i s = .next t) :
    SameResult s t ∨ ∃ r, t = s.commit r ∧ ∀ q, r = .ok q → q.Good := by
  rcases exec_cases h with ⟨hd, -⟩ | ⟨_, -, rfl⟩ | ⟨-, rfl⟩ | ⟨-, -, ⟨_, _, _, rfl⟩ | ⟨_, _, -, rfl⟩⟩
  · obtain ⟨r, hr, hgood⟩ := exec_decodeClass_good hd s
    rw [hr] at h
    cases h
    exact .inr ⟨r, rfl, hgood⟩
  all_goals exact .inl ⟨rfl, rfl, rfl, rfl, rfl⟩

theorem SameResult.resultLegal {s t : State} (h : SameResult s t) (hs : s.ResultLegal) : t.ResultLegal where
  countIsLength := by rw [h.recCount, h.recs]; exact hs.countIsLength
  noHeaderZero := by rw [h.hdrValid, h.hdr, h.bootTimeNs]; exact hs.noHeaderZero

theorem SameResult.headerCoherent {s t : State} (h : SameResult s t) (hs : s.HeaderCoherent) : t.HeaderCoherent where
  version5 := by rw [h.hdrValid, h.hdr]; exact hs.version5
  bootTimeOf := by rw [h.hdrValid, h.hdr, h.bootTimeNs]; exact hs.bootTimeOf
  recordCount := by rw [h.hdrValid, h.hdr, h.recs]; exact hs.recordCount

/-- R211 and R236: the write-back of a decode-class command leaves a consistent result group, whatever the group held
before. The bound on the records is what makes REC_COUNT their number. -/
theorem commit_resultLegal (s : State) {r : Except PipelineError DecodeResult} (hgood : ∀ q, r = .ok q → q.Good) :
    (s.commit r).ResultLegal := by
  rcases r with e | ⟨_ | h, boot, recs⟩
  · exact ⟨rfl, fun _ => ⟨rfl, rfl⟩⟩
  · exact ⟨BitVec.toNat_ofNat .. ▸ Nat.mod_eq_of_lt (hgood _ rfl).bounded, fun _ => ⟨rfl, rfl⟩⟩
  · exact ⟨BitVec.toNat_ofNat .. ▸ Nat.mod_eq_of_lt (hgood _ rfl).bounded, by simp⟩

theorem commit_headerCoherent (s : State) {r : Except PipelineError DecodeResult} (hgood : ∀ q, r = .ok q → q.Good) :
    (s.commit r).HeaderCoherent := by
  rcases r with e | ⟨_ | h, boot, recs⟩
  · exact ⟨by simp, by simp, by simp⟩
  · exact ⟨by simp, by simp, by simp⟩
  · obtain ⟨hversion, hboot, hcount⟩ := (hgood _ rfl).header h rfl
    exact ⟨fun _ => hversion, fun _ => hboot, fun _ => hcount⟩

theorem resultLegal_kept : KeptByActions State.ResultLegal where
  host _ hs := ⟨hs.countIsLength, hs.noHeaderZero⟩
  reset _ := ⟨rfl, fun _ => ⟨rfl, rfl⟩⟩
  load _ hs := ⟨hs.countIsLength, hs.noHeaderZero⟩
  illegal _ hs := ⟨hs.countIsLength, hs.noHeaderZero⟩
  command hs h := by
    rcases exec_result_cases h with hsame | ⟨r, rfl, hgood⟩
    · exact hsame.resultLegal hs
    · exact commit_resultLegal _ hgood

theorem headerCoherent_kept : KeptByActions State.HeaderCoherent where
  host _ hs := ⟨hs.version5, hs.bootTimeOf, hs.recordCount⟩
  reset _ := ⟨nofun, nofun, nofun⟩
  load _ hs := ⟨hs.version5, hs.bootTimeOf, hs.recordCount⟩
  illegal _ hs := ⟨hs.version5, hs.bootTimeOf, hs.recordCount⟩
  command hs h := by
    rcases exec_result_cases h with hsame | ⟨r, rfl, hgood⟩
    · exact hsame.headerCoherent hs
    · exact commit_headerCoherent _ hgood

/-! ## The status group (R28, R230, R231) -/

theorem ErrCode.statusValue_mem (code : ErrCode) : code.statusValue ∈ statusValues := by
  cases code <;> decide

/-- No error code is the STATUS value of success (R230). -/
theorem ErrCode.statusValue_ne_zero (code : ErrCode) : code.statusValue ≠ 0 := by
  cases code <;> decide

theorem Stage.tagValue_mem (stage : Stage) : stage.tagValue ∈ stageValues := by
  cases stage <;> decide

theorem State.statusOk_statusLegal (s : State) : s.statusOk.StatusLegal where
  statusListed := by simp [statusValues]
  stageListed := by simp [stageValues]
  okIsBlank _ := ⟨rfl, rfl, rfl, rfl⟩

theorem State.statusErr_statusLegal (s : State) (e : PipelineError) : (s.statusErr e).StatusLegal where
  statusListed := e.code.statusValue_mem
  stageListed := e.stage.tagValue_mem
  okIsBlank h := absurd h e.code.statusValue_ne_zero

/-- The status group of a write-back is that of the success or of the error it writes. -/
theorem commit_statusLegal (s : State) (r : Except PipelineError DecodeResult) : (s.commit r).StatusLegal := by
  have hok := s.statusOk_statusLegal
  rcases r with e | ⟨_ | h, boot, recs⟩
  · have herr := s.statusErr_statusLegal e
    exact ⟨herr.statusListed, herr.stageListed, herr.okIsBlank⟩
  · exact ⟨hok.statusListed, hok.stageListed, hok.okIsBlank⟩
  · exact ⟨hok.statusListed, hok.stageListed, hok.okIsBlank⟩

/-- The out-of-bounds report of a cursor command is an error of the cursor stage. -/
theorem State.withStatus_cursor_eq_statusErr (s : State) (a b c : Nat) : s.withStatus 1 5 a b c =
    s.statusErr ⟨.cursor, .outOfBounds, BitVec.ofNat 32 a, BitVec.ofNat 32 b, BitVec.ofNat 32 c⟩ := rfl

/-- Every command that goes on writes the whole status group, with listed values. -/
theorem exec_statusLegal {i : Instr} {s t : State} (h : exec i s = .next t) : t.StatusLegal := by
  rcases exec_cases h with ⟨-, r, rfl⟩ | ⟨_, -, rfl⟩ | ⟨-, rfl⟩ | ⟨-, -, ⟨_, _, _, rfl⟩ | ⟨_, _, -, rfl⟩⟩
  · exact commit_statusLegal s r
  · exact State.statusOk_statusLegal _
  · exact State.statusOk_statusLegal _
  · exact s.withStatus_cursor_eq_statusErr .. ▸ s.statusErr_statusLegal _
  · exact State.statusOk_statusLegal _

theorem statusLegal_kept : KeptByActions State.StatusLegal where
  host _ hs := ⟨hs.statusListed, hs.stageListed, hs.okIsBlank⟩
  reset _ := ⟨List.mem_cons_self, List.mem_cons_self, fun _ => ⟨rfl, rfl, rfl, rfl⟩⟩
  load _ hs := ⟨hs.statusListed, hs.stageListed, hs.okIsBlank⟩
  illegal _ _ := State.statusErr_statusLegal _ _
  command _ h := exec_statusLegal h

/-! ## INBUF (R22, R23, R65; log entry 3) -/

theorem loadInbuf_inbufLegal (s : State) {bytes : List Byte} (h : bytes.length ≤ Config.maxFrameLen.toNat) :
    (s.loadInbuf bytes).InbufLegal where
  canonical := Inbuf.ofBytes_wf bytes
  inside := by
    rw [State.loadInbuf_inbuf, State.loadInbuf_inbufLen, toNat_ofNat_of_le_word h]
    exact Inbuf.ofBytes_below bytes
  loadable := by
    rw [State.loadInbuf_inbufLen, toNat_ofNat_of_le_word h]
    exact h

theorem inbufLegal_kept : KeptByActions State.InbufLegal where
  host _ hs := ⟨hs.canonical, hs.inside, hs.loadable⟩
  reset _ := ⟨rfl, rfl, Nat.zero_le _⟩
  load h _ := loadInbuf_inbufLegal _ h
  illegal _ hs := ⟨hs.canonical, hs.inside, hs.loadable⟩
  command hs h := by
    obtain ⟨-, hinbuf, hlen⟩ := exec_kept h
    exact ⟨hinbuf ▸ hs.canonical, hinbuf ▸ hlen ▸ hs.inside, hlen ▸ hs.loadable⟩

/-! ## The step lemmas -/

/-- Settles O47: every action keeps the cursor inside its slice and the slice inside INBUF. -/
theorem stepKeepsTheCursorInItsSlice : Obligations.StepKeepsTheCursorInItsSlice :=
  fun _ _ hs h => cursorLegal_kept.step hs h

/-- Settles O48: only a write-back touches the result group, and it leaves the group consistent. -/
theorem stepKeepsTheResultGroupConsistent : Obligations.StepKeepsTheResultGroupConsistent :=
  fun _ _ hs h => resultLegal_kept.step hs h

/-- Settles O49: each of the five parts of a legal state is kept on its own. -/
theorem stepKeepsTheStateLegal : Obligations.StepKeepsTheStateLegal := fun _ _ hs h =>
  { cursor := cursorLegal_kept.step hs.cursor h
    result := resultLegal_kept.step hs.result h
    header := headerCoherent_kept.step hs.header h
    status := statusLegal_kept.step hs.status h
    inbuf := inbufLegal_kept.step hs.inbuf h }

end Sys2Proof.Machine
end

section
/-! PROOFS. INBUF: what LOAD_INBUF and host reads do (spec/10_state.md R22, R23, R36), reads of addresses that do not
exist (log entry 4), and the canonical form of log entry 3. -/

namespace Sys2Proof.Machine

/-! ## LOAD_INBUF and host reads -/

theorem SameInbuf.of_eq {s t : State} (hinbuf : t.inbuf = s.inbuf) (hlen : t.inbufLen = s.inbufLen) : SameInbuf s t :=
  ⟨State.readByte_congr hinbuf hlen, hlen⟩

/-- No command writes INBUF (R22). -/
theorem exec_sameInbuf {i : Instr} {s t : State} (h : exec i s = .next t) : SameInbuf s t := by
  obtain ⟨-, hinbuf, hlen⟩ := exec_kept h
  exact .of_eq hinbuf hlen

/-- No step but LOAD_INBUF and RESET writes INBUF (R22, R260). -/
theorem step_sameInbuf {s t : State} (hload : ∀ bytes, s.host.head? ≠ some (.loadInbuf bytes))
    (hreset : s.host.head? ≠ some .reset) (h : step s = .next t) : SameInbuf s t := by
  rcases step_cases h with ⟨-, rfl⟩ | ⟨action, rest, hhost, hact⟩
  · exact .of_eq rfl rfl
  rw [hhost] at hload hreset
  rcases hact with ⟨rfl, -⟩ | ⟨bytes, rfl, -⟩ | ⟨_, -, rfl⟩ | ⟨_, -, ⟨-, rfl⟩ | ⟨_, -, hexec⟩⟩
  · exact absurd rfl hreset
  · exact absurd rfl (hload bytes)
  · exact .of_eq rfl rfl
  · exact .of_eq rfl rfl
  · have hsame := exec_sameInbuf hexec
    exact ⟨hsame.bytes, hsame.inbufLen⟩

/-- Settles O11: the effect and the frame of LOAD_INBUF, then its being the only writer besides RESET. -/
theorem loadInbufReplacesInbuf : Obligations.LoadInbufReplacesInbuf := by
  refine ⟨fun s bytes rest hhost hlen => ?_, fun _ _ _ h => exec_sameInbuf h,
    fun _ _ hload hreset h => step_sameInbuf hload hreset h⟩
  refine ⟨State.loadInbuf { s with host := rest } bytes, ?_, State.readByte_loadInbuf _ hlen,
    toNat_ofNat_of_le_word hlen, rfl⟩
  rw [step_of_host hhost, hostAct_loadInbuf_of_le _ hlen]

/-- Settles O12: the limit is inclusive, and there is no lower one. -/
theorem loadInbufOverTheLimitHasNoMove : Obligations.LoadInbufOverTheLimitHasNoMove := by
  intro s bytes rest hhost
  rw [step_of_host hhost]
  exact ⟨hostAct_loadInbuf_of_lt _, fun h => ⟨_, hostAct_loadInbuf_of_le _ h⟩⟩

/-- Settles O13: each of the named targets has a value to read. -/
theorem hostReadsChangeNothing : Obligations.HostReadsChangeNothing := by
  intro s target rest hhost htarget
  rw [step_of_host hhost]
  apply hostAct_read_of_isSome
  cases target with
  | register r => exact State.registerValue_isSome _ htarget
  | inbufByte a => simpa [State.hostRead, State.readByte] using htarget
  | recField i f =>
    obtain ⟨hcount, hlen⟩ := htarget
    simp [State.hostRead, hcount, hlen]

/-! ## Cursor reads beyond INBUF -/

/-- A read inside the slice that touches an address beyond INBUF faults, whatever its width (log entry 4). -/
theorem readCommand_of_beyond {n : Nat} {s : State} (hslice : s.curPos.toNat + n ≤ s.curLen.toNat)
    (hbeyond : s.inbufLen.toNat < s.curPos.toNat + n) : readCommand n s = .fault .inbufAddress := by
  rcases readCommand_cases n s with ⟨hshort, -⟩ | ⟨-, -, hfault⟩ | ⟨-, hinside, -⟩
  · omega
  · exact hfault
  · omega

/-- Settles O22: the three widths are one read. -/
theorem cursorReadBeyondInbufFaults : Obligations.CursorReadBeyondInbufFaults :=
  fun _ => ⟨readCommand_of_beyond, readCommand_of_beyond, readCommand_of_beyond⟩

/-! ## The canonical form -/

theorem Inbuf.wfFrom_cons {lo address : Nat} {byte : Byte} {rest : Inbuf} :
    Inbuf.wfFrom lo ((address, byte) :: rest) = true ↔
      lo ≤ address ∧ byte ≠ 0 ∧ Inbuf.wfFrom (address + 1) rest = true := by
  simp [Inbuf.wfFrom, and_assoc]

@[simp] theorem Inbuf.byteAt_cons_same (address : Nat) (byte : Byte) (rest : Inbuf) :
    Inbuf.byteAt ((address, byte) :: rest) address = byte := if_pos rfl

theorem Inbuf.byteAt_cons_of_ne {address a : Nat} (h : address ≠ a) (byte : Byte) (rest : Inbuf) :
    Inbuf.byteAt ((address, byte) :: rest) a = rest.byteAt a := if_neg h

/-- An address that holds a byte other than 0 is not below where a canonical list starts. -/
theorem Inbuf.le_of_byteAt_ne_zero {lo a : Nat} {m : Inbuf} (hm : Inbuf.wfFrom lo m = true) (ha : m.byteAt a ≠ 0) :
    lo ≤ a :=
  Nat.le_of_not_lt fun hlt => ha (Inbuf.byteAt_of_lt_wfFrom hm hlt)

/-- Two canonical lists with one first cell that hold the same bytes have tails that do. -/
theorem Inbuf.byteAt_tail_congr {address : Nat} {byte : Byte} {rest rest' : Inbuf}
    (hrest : Inbuf.wfFrom (address + 1) rest = true) (hrest' : Inbuf.wfFrom (address + 1) rest' = true)
    (h : ∀ a, Inbuf.byteAt ((address, byte) :: rest) a = Inbuf.byteAt ((address, byte) :: rest') a) (a : Nat) :
    rest.byteAt a = rest'.byteAt a := by
  by_cases ha : address = a
  · rw [Inbuf.byteAt_of_lt_wfFrom hrest (by omega), Inbuf.byteAt_of_lt_wfFrom hrest' (by omega)]
  · simpa only [Inbuf.byteAt_cons_of_ne ha] using h a

/-- A canonical list that holds no byte but 0 is empty. -/
theorem Inbuf.eq_nil_of_byteAt_eq_zero {lo : Nat} {m : Inbuf} (hm : Inbuf.wfFrom lo m = true)
    (h : ∀ a, m.byteAt a = 0) : m = [] := by
  cases m with
  | nil => rfl
  | cons cell rest =>
    obtain ⟨address, byte⟩ := cell
    obtain ⟨-, hbyte, -⟩ := Inbuf.wfFrom_cons.mp hm
    exact absurd (by simpa using h address) hbyte

/-- Canonical lists are determined by their bytes: the first cell of each is the first byte other than 0, and the tails
hold the same bytes. -/
theorem Inbuf.eq_of_wfFrom_of_byteAt_eq {lo : Nat} {m m' : Inbuf} (hm : Inbuf.wfFrom lo m = true)
    (hm' : Inbuf.wfFrom lo m' = true) (h : ∀ a, m.byteAt a = m'.byteAt a) : m = m' := by
  induction m generalizing lo m' with
  | nil => exact (Inbuf.eq_nil_of_byteAt_eq_zero hm' fun a => (h a).symm).symm
  | cons cell rest ih =>
    cases m' with
    | nil => exact Inbuf.eq_nil_of_byteAt_eq_zero hm h
    | cons cell' rest' =>
      obtain ⟨address, byte⟩ := cell
      obtain ⟨address', byte'⟩ := cell'
      obtain ⟨-, hbyte, hrest⟩ := Inbuf.wfFrom_cons.mp hm
      obtain ⟨-, hbyte', hrest'⟩ := Inbuf.wfFrom_cons.mp hm'
      have hle : address ≤ address' :=
        Inbuf.le_of_byteAt_ne_zero (Inbuf.wfFrom_cons.mpr ⟨Nat.le_refl _, hbyte, hrest⟩)
          (by rwa [h, Inbuf.byteAt_cons_same])
      have hge : address' ≤ address :=
        Inbuf.le_of_byteAt_ne_zero (Inbuf.wfFrom_cons.mpr ⟨Nat.le_refl _, hbyte', hrest'⟩)
          (by rwa [← h, Inbuf.byteAt_cons_same])
      obtain rfl := Nat.le_antisymm hle hge
      obtain rfl : byte = byte' := by simpa using h address
      rw [ih hrest hrest' (Inbuf.byteAt_tail_congr hrest hrest' h)]

/-- Settles O16, by induction on the first list. -/
theorem canonicalInbufIsDeterminedByItsBytes : Obligations.CanonicalInbufIsDeterminedByItsBytes :=
  fun _ _ hm hm' h => Inbuf.eq_of_wfFrom_of_byteAt_eq hm hm' h

end Sys2Proof.Machine
end

section
/-! PROOFS. What a decode-class command depends on (spec/10_state.md R29, R34): the decoder and the stages read bytes
inside their window alone, and the write-backs hide the status and result groups before them. -/

namespace Sys2Proof.Machine

/-! ## Reads inside a window -/

/-- Two INBUF contents hold the same bytes inside a window. -/
def AgreeOn (w : Window) (m m' : Inbuf) : Prop :=
  ∀ off, off < w.len → m.byteAt (w.base + off) = m'.byteAt (w.base + off)

/-- A read that lies inside the window sees the bytes of the window alone. -/
theorem AgreeOn.winRead_eq {w : Window} {m m' : Inbuf} (h : AgreeOn w m m') {off n : Nat} (hfits : off + n ≤ w.len) :
    m.winRead w off n = m'.winRead w off n := by
  refine Inbuf.memRead_congr fun k hk => ?_
  rw [Nat.add_assoc]
  exact h (off + k) (by omega)

/-- Agreement on a window is agreement on every inner payload of it. -/
theorem AgreeOn.sub {w : Window} {m m' : Inbuf} (h : AgreeOn w m m') (k : Nat) : AgreeOn (w.sub k) m m' := by
  intro off hoff
  have hlen : off < w.len - k := hoff
  simpa only [Window.sub, Nat.add_assoc] using h (k + off) (by omega)

/-- States with the same input agree on the window of a decode-class command. -/
theorem SameInput.agreeOn {s t : State} (h : SameInput s t) : AgreeOn s.wholeInbuf s.inbuf t.inbuf := by
  intro off hoff
  have hs : off < s.inbufLen.toNat := hoff
  have ht : off < t.inbufLen.toNat := h.inbufLen ▸ hs
  have hbyte := h.bytes off
  rw [State.readByte_of_lt hs, State.readByte_of_lt ht] at hbyte
  simpa only [State.wholeInbuf, Nat.zero_add] using Option.some.inj hbyte

/-- Two runs of a sequence that begin alike are alike when what follows is, for each answer of the first part. -/
theorem bind_congr_of_ok {α β : Type} {x y : Except PipelineError α} {f g : α → Except PipelineError β} (hxy : x = y)
    (hfg : ∀ a, x = .ok a → f a = g a) : (x >>= f) = (y >>= g) := by
  subst hxy
  cases x with
  | error e => rfl
  | ok a => exact hfg a rfl

/-! ## The decoder -/

/-- A header read that answers keeps the cursor's window. -/
theorem hdrRead_win {m : Inbuf} {c : Cursor} {n : Nat} {r : Nat × Cursor} (h : hdrRead m c n = .ok r) :
    r.2.win = c.win := by
  rcases hdrRead_cases m c n with ⟨-, hr⟩ | ⟨-, hr⟩ <;> rw [hr] at h <;> cases h
  rfl

theorem AgreeOn.hdrRead_eq {m m' : Inbuf} {c : Cursor} (h : AgreeOn c.win m m') (n : Nat) :
    hdrRead m c n = hdrRead m' c n := by
  rcases Nat.lt_or_ge c.win.len (c.pos + n) with hshort | hfits
  · rw [hdrRead_of_short hshort, hdrRead_of_short hshort]
  · rw [hdrRead_of_fits hfits, hdrRead_of_fits hfits, h.winRead_eq hfits]

/-- A header read and what follows it, in two INBUF contents that agree on the window. -/
theorem AgreeOn.hdrRead_bind {α : Type} {w : Window} {m m' : Inbuf} (h : AgreeOn w m m') {c : Cursor} (hc : c.win = w)
    (n : Nat) {f g : Nat × Cursor → Except PipelineError α} (hfg : ∀ v c', c'.win = w → f (v, c') = g (v, c')) :
    (hdrRead m c n >>= f) = (hdrRead m' c n >>= g) := by
  subst hc
  exact bind_congr_of_ok (h.hdrRead_eq n) fun r hr => hfg r.1 r.2 (hdrRead_win hr)

theorem AgreeOn.decodeHeader_eq {w : Window} {m m' : Inbuf} (h : AgreeOn w m m') :
    decodeHeader m w = decodeHeader m' w := by
  unfold decodeHeader
  refine h.hdrRead_bind rfl 2 fun _ c hc => ?_
  iterate 8 refine h.hdrRead_bind hc _ fun _ c hc => ?_
  rfl

theorem AgreeOn.recordAt_eq {w : Window} {m m' : Inbuf} (h : AgreeOn w m m') {off : Nat} (hfits : off + 48 ≤ w.len) :
    recordAt m w off = recordAt m' w off := by
  have hread : ∀ d n, d + n ≤ 48 → m.winRead w (off + d) n = m'.winRead w (off + d) n :=
    fun d n hd => h.winRead_eq (by omega)
  simp (disch := decide) only [recordAt, hread]

theorem AgreeOn.decodeRecordsFrom_eq {w : Window} {m m' : Inbuf} (h : AgreeOn w m m') (count : Nat) :
    ∀ todo i, decodeRecordsFrom m w count i todo = decodeRecordsFrom m' w count i todo
  | 0, _ => rfl
  | todo + 1, i => by
    unfold decodeRecordsFrom
    split
    · rfl
    · rw [h.decodeRecordsFrom_eq count todo (i + 1), h.recordAt_eq (by omega)]

theorem AgreeOn.decodeRecords_eq {w : Window} {m m' : Inbuf} (h : AgreeOn w m m') (count : Nat) :
    decodeRecords m w count = decodeRecords m' w count := h.decodeRecordsFrom_eq count count 0

theorem AgreeOn.netflowDecode_eq {w : Window} {m m' : Inbuf} (h : AgreeOn w m m') :
    netflowDecode m w = netflowDecode m' w := by
  simp only [netflowDecode, h.decodeHeader_eq, h.decodeRecords_eq]

/-! ## The stages and the chain -/

theorem requireLen_ok {w : Window} {n : Nat} {stage : Stage} {u : Unit} (h : requireLen w n stage = .ok u) :
    n ≤ w.len := by
  rcases Nat.lt_or_ge w.len n with hshort | hfits
  · rw [requireLen_of_short hshort] at h
    cases h
  · exact hfits

theorem AgreeOn.linkStage_eq {w : Window} {m m' : Inbuf} (h : AgreeOn w m m') : linkStage m w = linkStage m' w := by
  refine bind_congr_of_ok rfl fun _ hlen => ?_
  have hlen := requireLen_ok hlen
  rw [h.winRead_eq (off := 12) (n := 2) (by omega)]

theorem AgreeOn.netStage_eq {w : Window} {m m' : Inbuf} (h : AgreeOn w m m') : netStage m w = netStage m' w := by
  refine bind_congr_of_ok rfl fun _ hlen => ?_
  have hlen := requireLen_ok hlen
  have hihl : ihlOf m w = ihlOf m' w := congrArg (· % 16) (h.winRead_eq (off := 0) (n := 1) (by omega))
  rw [hihl, h.winRead_eq (off := 9) (n := 1) (by omega)]

theorem AgreeOn.transportStage_eq {w : Window} {m m' : Inbuf} (h : AgreeOn w m m') (port : Half) :
    transportStage m port w = transportStage m' port w := by
  refine bind_congr_of_ok rfl fun _ hlen => ?_
  have hlen := requireLen_ok hlen
  rw [h.winRead_eq (off := 2) (n := 2) (by omega)]

/-- R185: a stage that passes hands on an inner payload of its window. -/
theorem linkStage_ok {m : Inbuf} {w w' : Window} (h : linkStage m w = .ok w') : ∃ k, w' = w.sub k := by
  rcases linkStage_cases m w with ⟨-, hc⟩ | ⟨-, -, hc⟩ | ⟨-, -, hc⟩ <;> rw [hc] at h <;> cases h
  exact ⟨14, rfl⟩

theorem netStage_ok {m : Inbuf} {w w' : Window} (h : netStage m w = .ok w') : ∃ k, w' = w.sub k := by
  rcases netStage_cases m w with ⟨-, hc⟩ | ⟨-, -, hc⟩ | ⟨-, -, -, hc⟩ | ⟨-, -, -, -, hc⟩ | ⟨-, -, -, -, hc⟩ <;>
    rw [hc] at h <;> cases h
  exact ⟨_, rfl⟩

theorem transportStage_ok {m : Inbuf} {port : Half} {w w' : Window} (h : transportStage m port w = .ok w') :
    ∃ k, w' = w.sub k := by
  rcases transportStage_cases m port w with ⟨-, hc⟩ | ⟨-, -, hc⟩ | ⟨-, -, hc⟩ <;> rw [hc] at h <;> cases h
  exact ⟨8, rfl⟩

theorem AgreeOn.chainTransport_eq {w : Window} {m m' : Inbuf} (h : AgreeOn w m m') (port : Half) :
    chainTransport m port w = chainTransport m' port w :=
  bind_congr_of_ok (h.transportStage_eq port) fun _ hw' => by
    obtain ⟨k, rfl⟩ := transportStage_ok hw'
    exact (h.sub k).netflowDecode_eq

theorem AgreeOn.chainNetwork_eq {w : Window} {m m' : Inbuf} (h : AgreeOn w m m') (port : Half) :
    chainNetwork m port w = chainNetwork m' port w :=
  bind_congr_of_ok h.netStage_eq fun _ hw' => by
    obtain ⟨k, rfl⟩ := netStage_ok hw'
    exact (h.sub k).chainTransport_eq port

theorem AgreeOn.chainLink_eq {w : Window} {m m' : Inbuf} (h : AgreeOn w m m') (port : Half) :
    chainLink m port w = chainLink m' port w :=
  bind_congr_of_ok h.linkStage_eq fun _ hw' => by
    obtain ⟨k, rfl⟩ := linkStage_ok hw'
    exact (h.sub k).chainNetwork_eq port

/-- The chain depends on the bytes of its window and on the port alone, wherever it is entered. -/
theorem AgreeOn.chain_eq {w : Window} {m m' : Inbuf} (h : AgreeOn w m m') (port : Half) :
    (entry : Entry) → chain m port w entry = chain m' port w entry
  | .link => h.chainLink_eq port
  | .network => h.chainNetwork_eq port
  | .transport => h.chainTransport_eq port
  | .netflow => h.netflowDecode_eq

/-! ## The commands -/

theorem SameInput.wholeInbuf_eq {s t : State} (h : SameInput s t) : t.wholeInbuf = s.wholeInbuf := by
  rw [State.wholeInbuf, State.wholeInbuf, h.inbufLen]

theorem SameInput.chainCommand_commits {s t : State} (h : SameInput s t) (entry : Entry) :
    ∃ r, chainCommand entry s = .next (s.commit r) ∧ chainCommand entry t = .next (t.commit r) :=
  ⟨_, rfl, by simp only [chainCommand, h.wholeInbuf_eq, ← h.cfgPort, h.agreeOn.chain_eq]⟩

/-- R34: from the same INBUF, INBUF_LEN and CFG_PORT a decode-class command writes back one and the same outcome. -/
theorem exec_decodeClass_sameInput {i : Instr} (hd : decodeClass i = true) {s t : State} (h : SameInput s t) :
    ∃ r, exec i s = .next (s.commit r) ∧ exec i t = .next (t.commit r) := by
  cases i with
  | nfHeader => exact ⟨_, rfl, by simp only [exec, execNfHeader, h.wholeInbuf_eq, h.agreeOn.decodeHeader_eq]⟩
  | nfRecords count => exact ⟨_, rfl, by simp only [exec, execNfRecords, h.wholeInbuf_eq, h.agreeOn.decodeRecords_eq]⟩
  | nfDecode => exact ⟨_, rfl, by simp only [exec, execNfDecode, h.wholeInbuf_eq, h.agreeOn.netflowDecode_eq]⟩
  | processFrame => exact h.chainCommand_commits .link
  | enterNetwork => exact h.chainCommand_commits .network
  | enterTransport => exact h.chainCommand_commits .transport
  | cfgSetPort | curBind | curRead8 | curRead16 | curRead32 | curSkip => cases hd

/-- A write-back determines the status group and the result group. -/
theorem commit_sameOutput (s t : State) (r : Except PipelineError DecodeResult) :
    SameOutput (s.commit r) (t.commit r) := by
  rcases r with e | ⟨_ | h, boot, recs⟩ <;> exact ⟨rfl, rfl, rfl, rfl, rfl, rfl, rfl, rfl, rfl, rfl⟩

/-- Settles O44: both runs write back the same outcome, and a write-back hides what was there. -/
theorem decodingDependsOnItsInputAlone : Obligations.DecodingDependsOnItsInputAlone := by
  intro i s t hd h
  obtain ⟨r, hs, ht⟩ := exec_decodeClass_sameInput hd h
  exact ⟨_, _, hs, ht, commit_sameOutput s t r⟩

theorem State.withStatus_sameInput (s : State) (x y : Byte) (a b c : Nat) :
    SameInput (s.withStatus x y a b c) s := ⟨fun _ => rfl, rfl, rfl⟩

theorem State.withResult_sameInput (s : State) (h : Option (NfHeader × Quad)) (recs : List FlowRecord) :
    SameInput (s.withResult h recs) s := ⟨fun _ => rfl, rfl, rfl⟩

/-- A user-cursor read does not see the status group before it: it writes all of it. -/
theorem readCommand_withStatus (n : Nat) (s : State) (x y : Byte) (a b c : Nat) :
    readCommand n (s.withStatus x y a b c) = readCommand n s := rfl

theorem execCurSkip_withStatus (n : Half) (s : State) (x y : Byte) (a b c : Nat) :
    execCurSkip n (s.withStatus x y a b c) = execCurSkip n s := rfl

/-- R29 and R267: every command writes the whole status group and reads none of it. -/
theorem exec_withStatus (i : Instr) (s : State) (x y : Byte) (a b c : Nat) :
    exec i (s.withStatus x y a b c) = exec i s := by
  by_cases hd : decodeClass i = true
  · obtain ⟨r, hs, ht⟩ := exec_decodeClass_sameInput hd (s.withStatus_sameInput x y a b c)
    rw [hs, ht, commit_withStatus]
  · cases i with
    | cfgSetPort | curBind => rfl
    | curRead8 => exact readCommand_withStatus 1 s x y a b c
    | curRead16 => exact readCommand_withStatus 2 s x y a b c
    | curRead32 => exact readCommand_withStatus 4 s x y a b c
    | curSkip n => exact execCurSkip_withStatus n s x y a b c
    | _ => exact absurd rfl hd

/-- R29 and R269: a decode-class command writes the whole result group and reads none of it. -/
theorem exec_withResult {i : Instr} (hd : decodeClass i = true) (s : State) (h : Option (NfHeader × Quad))
    (recs : List FlowRecord) : exec i (s.withResult h recs) = exec i s := by
  obtain ⟨r, hs, ht⟩ := exec_decodeClass_sameInput hd (s.withResult_sameInput h recs)
  rw [hs, ht, commit_withResult]

/-- Settles O45: the status group is no input of a command, nor the result group of a decode, and both are written
whole. -/
theorem earlierOutcomesDoNotMatter : Obligations.EarlierOutcomesDoNotMatter :=
  ⟨exec_withStatus, fun _ s h recs hd => exec_withResult hd s h recs⟩

end Sys2Proof.Machine
end

section
/-! PROOFS. The order of accesses (spec/20_memory.md R61, R64, R68): the host's list through a step, wide reads as
narrow reads, and the repeated decode. -/

namespace Sys2Proof.Machine

/-! ## The host's list -/

@[simp] theorem State.resetAction_host (s : State) : s.resetAction.host = s.host := rfl

/-- Settles O8: no effect of an action touches the host's list, from which the step has taken the action. -/
theorem hostActionsAreTakenInOrder : Obligations.HostActionsAreTakenInOrder := by
  intro s t h
  rcases step_cases h with ⟨hidle, rfl⟩ | ⟨action, rest, hhost, hact⟩
  · rw [hidle, List.tail_nil]
  rw [hhost, List.tail_cons]
  rcases hact with ⟨-, rfl⟩ | ⟨_, -, -, rfl⟩ | ⟨_, -, rfl⟩ | ⟨_, -, ⟨-, rfl⟩ | ⟨_, -, hexec⟩⟩
  · exact State.resetAction_host _
  · exact State.loadInbuf_host _ _
  · rfl
  · exact State.illegalCommand_host _ _
  · obtain ⟨hkept, -, -⟩ := exec_kept hexec
    exact hkept

/-! ## Wide and narrow reads -/

/-- R60: each further byte of a read moves the bytes before it up by one place. -/
theorem Inbuf.memRead_add (m : Inbuf) (a n k : Nat) :
    m.memRead a (n + k) = m.memRead a n * 256 ^ k + m.memRead (a + n) k := by
  induction k with
  | zero => simp
  | succ k ih =>
    calc m.memRead a (n + (k + 1))
        = m.memRead a (n + k) * 256 + m.u8 (a + (n + k)) := m.memRead_succ a (n + k)
      _ = (m.memRead a n * 256 ^ k + m.memRead (a + n) k) * 256 + m.u8 (a + n + k) := by rw [ih, Nat.add_assoc a]
      _ = m.memRead a n * 256 ^ (k + 1) + (m.memRead (a + n) k * 256 + m.u8 (a + n + k)) := by ring
      _ = m.memRead a n * 256 ^ (k + 1) + m.memRead (a + n) (k + 1) := by rw [Inbuf.memRead_succ m (a + n)]

/-- Settles O15, by induction on the width of the second read. -/
theorem wideReadsAgreeWithNarrowReads : Obligations.WideReadsAgreeWithNarrowReads := Inbuf.memRead_add

/-! ## The repeated decode -/

/-- A write-back touches none of what a decode-class command reads. -/
theorem State.commit_sameInput (s : State) (r : Except PipelineError DecodeResult) : SameInput (s.commit r) s :=
  ⟨s.readByte_commit r, s.commit_inbufLen r, s.commit_cfgPort r⟩

/-- Settles O46: the second run reads what the first one read, and writing one outcome back twice is writing it back
once. -/
theorem aRepeatedDecodeChangesNothing : Obligations.ARepeatedDecodeChangesNothing := by
  intro i s t hd h
  obtain ⟨_, hcommit⟩ := exec_decodeClass hd s
  obtain ⟨r, ht, hs⟩ := exec_decodeClass_sameInput hd (s.commit_sameInput _)
  rw [hcommit] at h hs
  cases h
  rw [ht, Host.Outcome.next.inj hs, commit_commit]

end Sys2Proof.Machine
end

section
/-! PROOFS. Command words (spec/30_encoding.md R80 to R84): the table row, the packed word and the decoder as one
relation, R83's conditions as the obligations write them, and the step on a word. -/

namespace Sys2Proof

/-! ## The decoder and the encoder -/

/-- R83: a word decodes to a command when R81's table has the command in the row of its OP, its RSV is 0, and its IMM is
0 where the row says so. -/
theorem decode_eq_ok_iff {w : Word} {i : Instr} : decode w = .ok i ↔
    ∃ takesOperand, opRow (w.extractLsb' 0 8) (w.extractLsb' 16 16) = some (takesOperand, i) ∧
      w.extractLsb' 8 8 = 0 ∧ (takesOperand = false → w.extractLsb' 16 16 = 0) := by
  unfold decode
  cases opRow (w.extractLsb' 0 8) (w.extractLsb' 16 16) with
  | none => simp
  | some row =>
    obtain ⟨takesOperand, j⟩ := row
    simp only [Option.some.injEq, Prod.mk.injEq]
    split_ifs with hrsv himm
    · exact iff_of_false nofun fun ⟨_, _, hzero, _⟩ => hrsv hzero
    · exact iff_of_false nofun fun ⟨_, ⟨rfl, _⟩, _, hzero⟩ => himm.2 (hzero himm.1)
    · constructor
      · intro h
        cases h
        exact ⟨_, ⟨rfl, rfl⟩, not_not.mp hrsv, fun htakes => by_contra fun hne => himm ⟨htakes, hne⟩⟩
      · rintro ⟨_, ⟨rfl, rfl⟩, -, -⟩
        rfl

/-- A word packed from a row of R81's table decodes to the command of the row. -/
theorem decode_packWord {imm : Half} {op : Byte} {takesOperand : Bool} {i : Instr}
    (hrow : opRow op imm = some (takesOperand, i)) (himm : takesOperand = false → imm = 0) :
    decode (packWord imm op) = .ok i :=
  decode_eq_ok_iff.mpr ⟨takesOperand, by rwa [packWord_op, packWord_imm], packWord_rsv imm op, by rwa [packWord_imm]⟩

/-- The encoder packs every row of R81's table into the word the decoder reads the row from. -/
theorem encode_of_opRow {imm : Half} {op : Byte} {takesOperand : Bool} {i : Instr}
    (hrow : opRow op imm = some (takesOperand, i)) (himm : takesOperand = false → imm = 0) :
    encode i = packWord imm op := by
  unfold opRow at hrow
  split at hrow <;> cases hrow
  case h_1 | h_6 | h_8 => rfl
  all_goals rw [himm rfl]; rfl

/-- Settles O1: the word of each command is packed from the command's row of R81's table. -/
theorem encodedCommandDecodesToItself : Obligations.EncodedCommandDecodesToItself := by
  intro i
  cases i with
  | cfgSetPort | curSkip | nfRecords => exact decode_packWord rfl nofun
  | _ => exact decode_packWord rfl fun _ => rfl

/-- Settles O2: a word that decodes is packed from its OP and its IMM, and so is the word of its command. -/
theorem decodedWordIsItsCommandsWord : Obligations.DecodedWordIsItsCommandsWord := by
  intro w i h
  obtain ⟨_, hrow, hrsv, himm⟩ := decode_eq_ok_iff.mp h
  rw [encode_of_opRow hrow himm, packWord_fields w hrsv]

/-- Settles O4: each word is evaluated; the last three break one condition of R83 each. -/
theorem wordsOfTheSpecDecode : Obligations.WordsOfTheSpecDecode := by
  unfold Obligations.WordsOfTheSpecDecode
  decide

/-- Settles O5: the three lines are evaluated. -/
theorem linesOfTheSpecAssemble : Obligations.LinesOfTheSpecAssemble := by
  unfold Obligations.LinesOfTheSpecAssemble
  decide

/-! ## R83's three conditions -/

theorem Command.opKnown_iff (c : Command) : c.opKnown = true ↔
    c.op ∈ [0x01#8, 0x10#8, 0x11#8, 0x12#8, 0x13#8, 0x14#8, 0x20#8, 0x21#8, 0x22#8, 0x30#8, 0x31#8, 0x32#8] := by
  simp [Command.opKnown, opTable, or_assoc, or_left_comm]

/-- The known codes whose IMM must be 0 are the ones beside the three that take an operand. -/
theorem Command.operandAllowed_iff {c : Command} (h : c.opKnown = true) :
    c.operandAllowed = true ↔ (c.op ∉ [0x01#8, 0x14#8, 0x21#8] → c.imm = 0) := by
  obtain ⟨op, rsv, imm⟩ := c
  simp only [Command.opKnown_iff, List.mem_cons, List.not_mem_nil, or_false] at h
  rcases h with rfl | rfl | rfl | rfl | rfl | rfl | rfl | rfl | rfl | rfl | rfl | rfl <;>
    simp [Command.operandAllowed, opTable]

/-- R83, over the fields of the word. -/
theorem legalWord_iff (w : Word) : legalWord w = true ↔
    w.extractLsb' 0 8 ∈ [0x01#8, 0x10#8, 0x11#8, 0x12#8, 0x13#8, 0x14#8, 0x20#8, 0x21#8, 0x22#8, 0x30#8, 0x31#8, 0x32#8] ∧
      w.extractLsb' 8 8 = 0 ∧ (w.extractLsb' 0 8 ∉ [0x01#8, 0x14#8, 0x21#8] → w.extractLsb' 16 16 = 0) := by
  have hrsv : (Command.ofWord w).rsvZero = true ↔ w.extractLsb' 8 8 = 0 := beq_iff_eq
  simp only [legalWord, Command.legal, Bool.and_eq_true, and_assoc, hrsv]
  constructor
  · rintro ⟨hknown, hzero, hallowed⟩
    exact ⟨(Command.opKnown_iff _).mp hknown, hzero, (Command.operandAllowed_iff hknown).mp hallowed⟩
  · rintro ⟨hop, hzero, himm⟩
    have hknown := (Command.opKnown_iff (Command.ofWord w)).mpr hop
    exact ⟨hknown, hzero, (Command.operandAllowed_iff hknown).mpr himm⟩

end Sys2Proof

namespace Sys2Proof.Machine

/-! ## The step on a command word -/

/-- R235, in the terms of Safety: STATUS 15, no stage, the word in ERR_A. -/
theorem State.illegalCommand_eq_withStatus (s : State) (w : Word) :
    s.illegalCommand w = s.withStatus 15 0 w.toNat 0 0 := by
  rw [State.withStatus, BitVec.ofNat_toNat, BitVec.setWidth_eq]
  rfl

theorem executeWord_of_decode {w : Word} {i : Instr} (h : decode w = .ok i) (s : State) :
    executeWord w s = exec i s := by
  simp only [executeWord, h]

theorem executeWord_of_illegal {w : Word} (h : legalWord w = false) (s : State) :
    executeWord w s = .next (s.illegalCommand w) := by
  obtain ⟨_, hdecode⟩ := decode_of_illegal h
  simp only [executeWord, hdecode]

/-- Settles O3: the written word is executed, and R83's conditions say which way. -/
theorem wordRunsOrIsIllegal : Obligations.WordRunsOrIsIllegal := by
  intro w s rest hhost
  have hstep : step s = executeWord w { s with host := rest } := step_of_host hhost
  refine ⟨fun hlegal => ?_, fun hillegal => ?_⟩
  · obtain ⟨i, hdecode⟩ := decode_of_legal ((legalWord_iff w).mpr hlegal)
    exact ⟨i, hdecode, hstep.trans (executeWord_of_decode hdecode _)⟩
  · have hword : legalWord w = false := Bool.eq_false_iff.mpr fun h => hillegal ((legalWord_iff w).mp h)
    rw [hstep, executeWord_of_illegal hword, State.illegalCommand_eq_withStatus]

end Sys2Proof.Machine
end

section
/-! PROOFS. The three skipped bytes of each record (spec/30_encoding.md R102): what a decode-class command reads lies
either below the first record or in the fields of a record. -/

namespace Sys2Proof.Machine

/-! ## Agreement but for the skipped bytes -/

/-- Two INBUF contents hold the same bytes inside a window, but for the skipped bytes of the records of a payload that
starts at address `p`. -/
def AgreeButSkipped (p : Nat) (w : Window) (m m' : Inbuf) : Prop :=
  ∀ off, off < w.len → ¬ SkippedByte p (w.base + off) → m.byteAt (w.base + off) = m'.byteAt (w.base + off)

/-- Nothing is skipped below the first record. -/
theorem not_skippedByte_of_lt {p a : Nat} (h : a < p + 24) : ¬ SkippedByte p a :=
  fun ⟨hle, _⟩ => Nat.not_lt.mpr hle h

/-- Inside record `i` the skipped bytes are the record offsets 36, 46 and 47. -/
theorem not_skippedByte_of_field {p i d : Nat} (hd : d < 46) (h36 : d ≠ 36) :
    ¬ SkippedByte p (p + (24 + 48 * i + d)) := by
  unfold SkippedByte
  omega

section
variable {p : Nat} {w : Window} {m m' : Inbuf}

/-- The part of the window below the first record agrees wholly. -/
theorem AgreeButSkipped.agreeOn (h : AgreeButSkipped p w m m') {n : Nat} (hfits : n ≤ w.len)
    (hbelow : w.base + n ≤ p + 24) : AgreeOn ⟨w.base, n⟩ m m' := by
  intro off hoff
  have hlt : off < n := hoff
  exact h off (by omega) (not_skippedByte_of_lt (by omega))

/-- A read below the first record. -/
theorem AgreeButSkipped.winRead_eq (h : AgreeButSkipped p w m m') {off n : Nat} (hfits : off + n ≤ w.len)
    (hbelow : w.base + (off + n) ≤ p + 24) : m.winRead w off n = m'.winRead w off n :=
  (h.agreeOn hfits hbelow).winRead_eq (Nat.le_refl _)

theorem AgreeButSkipped.sub (h : AgreeButSkipped p w m m') (k : Nat) : AgreeButSkipped p (w.sub k) m m' := by
  intro off hoff
  have hlen : off < w.len - k := hoff
  simpa only [Window.sub, Nat.add_assoc] using h (k + off) (by omega)

/-! ## The decoder -/

/-- The header is its first 24 bytes, if there are as many. -/
theorem decodeHeader_eq_of_fits (m : Inbuf) (h : 24 ≤ w.len) : decodeHeader m w = decodeHeader m ⟨w.base, 24⟩ := by
  rw [decodeHeader_of_fits h, decodeHeader_of_fits (Nat.le_refl 24)]

theorem AgreeButSkipped.decodeHeader_eq (h : AgreeButSkipped w.base w m m') : decodeHeader m w = decodeHeader m' w := by
  rcases Nat.lt_or_ge w.len 24 with hshort | hfits
  · exact (h.agreeOn (Nat.le_refl _) (by omega)).decodeHeader_eq
  · rw [decodeHeader_eq_of_fits m hfits, decodeHeader_eq_of_fits m' hfits,
      (h.agreeOn hfits (Nat.le_refl _)).decodeHeader_eq]

/-- R102: no field of a record covers a skipped byte. -/
theorem AgreeButSkipped.recordAt_eq (h : AgreeButSkipped w.base w m m') {i : Nat} (hfits : 24 + 48 * i + 48 ≤ w.len) :
    recordAt m w (24 + 48 * i) = recordAt m' w (24 + 48 * i) := by
  have hfield : ∀ d n, d + n ≤ 36 ∨ 37 ≤ d ∧ d + n ≤ 46 →
      m.winRead w (24 + 48 * i + d) n = m'.winRead w (24 + 48 * i + d) n := by
    intro d n hd
    refine Inbuf.memRead_congr fun k hk => ?_
    simp only [Nat.add_assoc w.base, Nat.add_assoc (24 + 48 * i)]
    exact h _ (by omega) (not_skippedByte_of_field (by omega) (by omega))
  simp (disch := decide) only [recordAt, hfield]

theorem AgreeButSkipped.decodeRecordsFrom_eq (h : AgreeButSkipped w.base w m m') (count : Nat) :
    ∀ todo i, decodeRecordsFrom m w count i todo = decodeRecordsFrom m' w count i todo
  | 0, _ => rfl
  | todo + 1, i => by
    unfold decodeRecordsFrom
    split
    · rfl
    · rw [h.decodeRecordsFrom_eq count todo (i + 1), h.recordAt_eq (by omega)]

theorem AgreeButSkipped.decodeRecords_eq (h : AgreeButSkipped w.base w m m') (count : Nat) :
    decodeRecords m w count = decodeRecords m' w count := h.decodeRecordsFrom_eq count count 0

theorem AgreeButSkipped.netflowDecode_eq (h : AgreeButSkipped w.base w m m') :
    netflowDecode m w = netflowDecode m' w := by
  simp only [netflowDecode, h.decodeHeader_eq, h.decodeRecords_eq]

/-! ## The stages and the chain -/

theorem linkStage_ok_eq {w' : Window} (h : linkStage m w = .ok w') : w' = w.sub 14 := by
  rcases linkStage_cases m w with ⟨-, hc⟩ | ⟨-, -, hc⟩ | ⟨-, -, hc⟩ <;> rw [hc] at h <;> cases h
  rfl

theorem netStage_ok_eq {w' : Window} (h : netStage m w = .ok w') : w' = w.sub (4 * (m.u8 w.base % 16)) := by
  rcases netStage_cases m w with ⟨-, hc⟩ | ⟨-, -, hc⟩ | ⟨-, -, -, hc⟩ | ⟨-, -, -, -, hc⟩ | ⟨-, -, -, -, hc⟩ <;>
    rw [hc] at h <;> cases h
  rfl

theorem transportStage_ok_eq {port : Half} {w' : Window} (h : transportStage m port w = .ok w') : w' = w.sub 8 := by
  rcases transportStage_cases m port w with ⟨-, hc⟩ | ⟨-, -, hc⟩ | ⟨-, -, hc⟩ <;> rw [hc] at h <;> cases h
  rfl

theorem AgreeButSkipped.transportStage_eq (h : AgreeButSkipped p w m m') (hp : w.base ≤ p) (port : Half) :
    transportStage m port w = transportStage m' port w :=
  bind_congr_of_ok rfl fun _ hlen => by
    have hlen := requireLen_ok hlen
    rw [h.winRead_eq (off := 2) (n := 2) (by omega) (by omega)]

theorem AgreeButSkipped.netStage_eq (h : AgreeButSkipped p w m m') (hp : w.base ≤ p) : netStage m w = netStage m' w :=
  bind_congr_of_ok rfl fun _ hlen => by
    have hlen := requireLen_ok hlen
    have hihl : ihlOf m w = ihlOf m' w := congrArg (· % 16) (h.winRead_eq (by omega) (by omega))
    rw [hihl, h.winRead_eq (off := 9) (n := 1) (by omega) (by omega)]

theorem AgreeButSkipped.linkStage_eq (h : AgreeButSkipped p w m m') (hp : w.base ≤ p) :
    linkStage m w = linkStage m' w :=
  bind_congr_of_ok rfl fun _ hlen => by
    have hlen := requireLen_ok hlen
    rw [h.winRead_eq (off := 12) (n := 2) (by omega) (by omega)]

/-- The payload of a datagram starts behind its 8-byte header (R96). -/
theorem AgreeButSkipped.chainTransport_eq (h : AgreeButSkipped p w m m') (hp : p = w.base + 8) (port : Half) :
    chainTransport m port w = chainTransport m' port w :=
  bind_congr_of_ok (h.transportStage_eq (by omega) port) fun _ hw' => by
    subst hp
    rw [transportStage_ok_eq hw']
    exact (h.sub 8).netflowDecode_eq

/-- The datagram of a packet starts behind a header of `4 * IHL` bytes (R93). -/
theorem AgreeButSkipped.chainNetwork_eq (h : AgreeButSkipped p w m m') (hp : p = w.base + 4 * (m.u8 w.base % 16) + 8)
    (port : Half) : chainNetwork m port w = chainNetwork m' port w :=
  bind_congr_of_ok (h.netStage_eq (by omega)) fun _ hw' => by
    rw [netStage_ok_eq hw']
    exact (h.sub _).chainTransport_eq hp port

/-- The packet of a frame starts behind its 14-byte header (R90). -/
theorem AgreeButSkipped.chainLink_eq (h : AgreeButSkipped p w m m')
    (hp : p = w.base + 14 + 4 * (m.u8 (w.base + 14) % 16) + 8) (port : Half) :
    chainLink m port w = chainLink m' port w :=
  bind_congr_of_ok (h.linkStage_eq (by omega)) fun _ hw' => by
    rw [linkStage_ok_eq hw']
    exact (h.sub 14).chainNetwork_eq hp port

end

/-! ## The commands -/

/-- States whose INBUFs differ in skipped bytes alone agree so on the window of a decode-class command. -/
theorem agreeButSkipped_wholeInbuf {s t : State} {p : Nat} (hlen : s.inbufLen = t.inbufLen)
    (hbytes : ∀ a, ¬ SkippedByte p a → s.readByte a = t.readByte a) :
    AgreeButSkipped p s.wholeInbuf s.inbuf t.inbuf := by
  intro off hoff hskip
  have hs : off < s.inbufLen.toNat := hoff
  simp only [State.wholeInbuf, Nat.zero_add] at hskip ⊢
  have hbyte := hbytes off hskip
  rw [State.readByte_of_lt hs, State.readByte_of_lt (hlen ▸ hs)] at hbyte
  exact Option.some.inj hbyte

theorem wholeInbuf_congr {s t : State} (hlen : s.inbufLen = t.inbufLen) : t.wholeInbuf = s.wholeInbuf := by
  rw [State.wholeInbuf, State.wholeInbuf, hlen]

/-- A chain command writes back what the chain answers, and no more of INBUF enters it. -/
theorem chainCommand_commits {s t : State} {entry : Entry} (hlen : s.inbufLen = t.inbufLen)
    (hport : s.cfgPort = t.cfgPort)
    (h : chain s.inbuf s.cfgPort s.wholeInbuf entry = chain t.inbuf s.cfgPort s.wholeInbuf entry) :
    ∃ r, chainCommand entry s = .next (s.commit r) ∧ chainCommand entry t = .next (t.commit r) :=
  ⟨_, rfl, by simp only [chainCommand, wholeInbuf_congr hlen, ← hport, h]⟩

/-- R102: from INBUFs that differ in skipped bytes alone a decode-class command writes back one and the same outcome. -/
theorem exec_decodeClass_agreeButSkipped {i : Instr} (hd : decodeClass i = true) {s t : State}
    (hlen : s.inbufLen = t.inbufLen) (hport : s.cfgPort = t.cfgPort)
    (h : AgreeButSkipped (payloadStart s.inbuf i) s.wholeInbuf s.inbuf t.inbuf) :
    ∃ r, exec i s = .next (s.commit r) ∧ exec i t = .next (t.commit r) := by
  have hwin := wholeInbuf_congr hlen
  cases i with
  | nfHeader =>
    have hheader := AgreeButSkipped.decodeHeader_eq (w := s.wholeInbuf) h
    exact ⟨_, rfl, by simp only [exec, execNfHeader, hwin, hheader]⟩
  | nfRecords count =>
    have hrecords := AgreeButSkipped.decodeRecords_eq (w := s.wholeInbuf) h (immCount count)
    exact ⟨_, rfl, by simp only [exec, execNfRecords, hwin, hrecords]⟩
  | nfDecode =>
    have hdecode := AgreeButSkipped.netflowDecode_eq (w := s.wholeInbuf) h
    exact ⟨_, rfl, by simp only [exec, execNfDecode, hwin, hdecode]⟩
  | processFrame =>
    exact chainCommand_commits hlen hport (h.chainLink_eq (by simp [payloadStart, State.wholeInbuf]) _)
  | enterNetwork =>
    exact chainCommand_commits hlen hport (h.chainNetwork_eq (by simp [payloadStart, State.wholeInbuf]) _)
  | enterTransport => exact chainCommand_commits hlen hport (h.chainTransport_eq rfl _)
  | cfgSetPort | curBind | curRead8 | curRead16 | curRead32 | curSkip => cases hd

/-- Settles O31: both runs write back the same outcome, since no read of theirs covers a skipped byte. -/
theorem paddingBytesHaveNoEffect : Obligations.PaddingBytesHaveNoEffect := by
  intro i s t hd hlen hport hbytes
  obtain ⟨r, hs, ht⟩ := exec_decodeClass_agreeButSkipped hd hlen hport (agreeButSkipped_wholeInbuf hlen hbytes)
  exact ⟨_, _, hs, ht, commit_sameOutput s t r⟩

end Sys2Proof.Machine
end

section
/-! PROOFS. The user cursor's commands (spec/40_cursor.md section 2): the one read and the one skip, each inside the
slice or reported, with the whole next state in the terms of Safety. -/

namespace Sys2Proof.Machine

/-! ## The write-back of R136 -/

/-- R28, in the terms of Safety: a success is the status group all 0. -/
theorem State.statusOk_eq_withStatus (s : State) : s.statusOk = s.withStatus 0 0 0 0 0 := rfl

/-- Moving CUR_POS as a number is moving it as a word. -/
theorem State.curPos_add (s : State) (n : Nat) :
    BitVec.ofNat 32 (s.curPos.toNat + n) = s.curPos + BitVec.ofNat 32 n := by
  rw [BitVec.ofNat_add, BitVec.ofNat_toNat, BitVec.setWidth_eq]

/-- Settles O17: CUR_BIND has no case to split, and its word is evaluated. -/
theorem bindCoversAllOfInbuf : Obligations.BindCoversAllOfInbuf :=
  ⟨by decide, fun _ => congrArg Host.Outcome.next (State.statusOk_eq_withStatus _)⟩

/-! ## Reads -/

/-- A read past the end of the slice is reported, whatever its width. -/
theorem readCommand_of_short {n : Nat} {s : State} (hshort : s.curLen.toNat < s.curPos.toNat + n) :
    readCommand n s = .next (s.withStatus 1 5 s.curPos.toNat n s.curLen.toNat) := by
  rcases readCommand_cases n s with ⟨-, hreport⟩ | ⟨hslice, -⟩ | ⟨hslice, -⟩
  · exact hreport
  · omega
  · omega

/-- A read inside the slice and inside INBUF loads CUR_DATA and moves CUR_POS, whatever its width. -/
theorem readCommand_of_fits {n : Nat} {s : State} (hslice : s.curPos.toNat + n ≤ s.curLen.toNat)
    (hinside : s.curPos.toNat + n ≤ s.inbufLen.toNat) :
    readCommand n s = .next (State.withStatus { s with
      curData := BitVec.ofNat 32 (s.inbuf.memRead s.curPos.toNat n),
      curPos := s.curPos + BitVec.ofNat 32 n } 0 0 0 0 0) := by
  rcases readCommand_cases n s with ⟨hshort, -⟩ | ⟨-, hbeyond, -⟩ | ⟨-, -, hread⟩
  · omega
  · omega
  · rw [hread, State.curPos_add, State.statusOk_eq_withStatus]

/-- Settles O18: one byte is its own value. -/
theorem read8ReadsOneByteOrReports : Obligations.Read8ReadsOneByteOrReports := by
  refine ⟨by decide, fun s => ⟨fun b hb hslice => ?_, readCommand_of_short⟩⟩
  obtain ⟨hinside, rfl⟩ := State.readByte_eq_some.mp hb
  refine (readCommand_of_fits (n := 1) hslice hinside).trans ?_
  rw [Inbuf.memRead_one, Inbuf.u8, BitVec.ofNat_toNat]
  rfl

/-- Settles O19: the last of the two bytes says that both are in INBUF. -/
theorem read16ReadsBigEndianOrReports : Obligations.Read16ReadsBigEndianOrReports := by
  refine ⟨by decide, fun s => ⟨fun b0 b1 h0 h1 hslice => ?_, readCommand_of_short⟩⟩
  obtain ⟨-, rfl⟩ := State.readByte_eq_some.mp h0
  obtain ⟨hinside, rfl⟩ := State.readByte_eq_some.mp h1
  refine (readCommand_of_fits (n := 2) hslice hinside).trans ?_
  rw [Inbuf.memRead_two]
  rfl

/-- Settles O20: the last of the four bytes says that all are in INBUF. -/
theorem read32ReadsBigEndianOrReports : Obligations.Read32ReadsBigEndianOrReports := by
  refine ⟨by decide, fun s => ⟨fun b0 b1 b2 b3 h0 h1 h2 h3 hslice => ?_, readCommand_of_short⟩⟩
  obtain ⟨-, rfl⟩ := State.readByte_eq_some.mp h0
  obtain ⟨-, rfl⟩ := State.readByte_eq_some.mp h1
  obtain ⟨-, rfl⟩ := State.readByte_eq_some.mp h2
  obtain ⟨hinside, rfl⟩ := State.readByte_eq_some.mp h3
  refine (readCommand_of_fits (n := 4) hslice hinside).trans ?_
  rw [Inbuf.memRead_four]
  rfl

/-! ## Skips -/

/-- Settles O21: CUR_POS, bounded by CUR_LEN, does not wrap. -/
theorem skipMovesInsideTheSliceOrReports : Obligations.SkipMovesInsideTheSliceOrReports := by
  refine ⟨fun _ => rfl, fun s n => ?_⟩
  rcases execCurSkip_cases n s with ⟨hshort, hreport⟩ | ⟨hslice, hmove⟩
  · exact ⟨fun h => absurd h (Nat.not_le.mpr hshort), fun _ => hreport⟩
  · exact ⟨fun _ => ⟨_, toNat_ofNat_of_le_word hslice, hmove⟩, fun h => absurd h (Nat.not_lt.mpr hslice)⟩

end Sys2Proof.Machine
end

section
/-! PROOFS. The Netflow decoder (spec/41_netflow_decoder.md): what the header, the boot time and the record loop answer,
by byte offsets, and the three decoder commands in the terms of Safety. -/

namespace Sys2Proof.Machine

/-! ## The header (R150 to R153) -/

/-- Offset and width of the nine header fields, in the order of R98. -/
def headerSpans : List (Nat × Nat) := [(0, 2), (2, 2), (4, 4), (8, 4), (12, 4), (16, 4), (20, 1), (21, 1), (22, 2)]

/-- R152: the field in which a short payload ends is the one that `headerFieldCutAt` names. -/
theorem headerFieldCutAt_of_span : ∀ len < 24, ∀ span ∈ headerSpans, span.1 ≤ len → len < span.1 + span.2 →
    headerFieldCutAt len = span := by decide

/-- The MalformedHeader of a payload of `len` bytes (R150, R152). -/
def headerCutError (len : Nat) : PipelineError :=
  ⟨.netflow, .malformedHeader, BitVec.ofNat 32 (headerFieldCutAt len).1, BitVec.ofNat 32 (headerFieldCutAt len).2,
    BitVec.ofNat 32 len⟩

/-- One field of a short header: it is cut, or what follows decides. -/
theorem hdrRead_bind_of_short {α : Type} {m : Inbuf} {w : Window} {off n : Nat}
    {f : Nat × Cursor → Except PipelineError α} (hshort : w.len < 24) (hspan : (off, n) ∈ headerSpans)
    (hoff : off ≤ w.len)
    (hrest : off + n ≤ w.len → f (m.winRead w off n, ⟨w, off + n⟩) = .error (headerCutError w.len)) :
    (hdrRead m ⟨w, off⟩ n >>= f) = .error (headerCutError w.len) := by
  rcases hdrRead_cases m ⟨w, off⟩ n with ⟨hfits, hread⟩ | ⟨hcut, hread⟩
  · rw [hread]
    exact hrest hfits
  · rw [hread, headerCutError, headerFieldCutAt_of_span _ hshort _ hspan hoff hcut]
    rfl

/-- R152: a header of fewer than 24 bytes is reported with its first field that does not fit. -/
theorem decodeHeader_of_short {m : Inbuf} {w : Window} (hshort : w.len < 24) :
    decodeHeader m w = .error (headerCutError w.len) := by
  unfold decodeHeader
  refine hdrRead_bind_of_short hshort (by decide) (Nat.zero_le _) fun hoff => ?_
  iterate 8 refine hdrRead_bind_of_short hshort (by decide) hoff fun hoff => ?_
  exact absurd hoff (Nat.not_le.mpr hshort)

theorem decodeHeader_of_version {m : Inbuf} {w : Window} (hfits : 24 ≤ w.len) (hversion : m.u16 w.base = 5) :
    decodeHeader m w = .ok (m.headerAt w.base) := by
  rw [decodeHeader_of_fits hfits, if_neg (not_not_intro hversion)]

theorem decodeHeader_of_other_version {m : Inbuf} {w : Window} (hfits : 24 ≤ w.len) (hversion : m.u16 w.base ≠ 5) :
    decodeHeader m w = raiseError .unsupportedVersion .netflow (m.u16 w.base) 0 0 := by
  rw [decodeHeader_of_fits hfits, if_pos hversion]

/-- Settles O24: the header decode answers in one of its three ways, and NF_HEADER writes that answer back. -/
theorem nfHeaderDecodesOrNamesTheFault : Obligations.NfHeaderDecodesOrNamesTheFault := by
  refine ⟨rfl, fun s => ⟨fun hshort => ?_, fun hfits hversion => ?_, fun hfits hversion => ?_⟩⟩
  · simp only [exec, execNfHeader, decodeHeader_of_short (w := s.wholeInbuf) hshort]
    rfl
  · simp only [exec, execNfHeader, decodeHeader_of_other_version (w := s.wholeInbuf) hfits hversion]
    rfl
  · simp only [exec, execNfHeader, decodeHeader_of_version (w := s.wholeInbuf) hfits hversion]
    rfl

/-! ## The boot time (R156) -/

/-- Settles O25: neither product nor their sum wraps, so only the subtraction is modulo 2^64. -/
theorem bootTimeIsWallClockLessUptime : Obligations.BootTimeIsWallClockLessUptime := by
  intro h wall uptime
  have hwall : (wallNs h).toNat = wall := wallNs_toNat h
  have huptime : (uptimeNs h).toNat = uptime := uptimeNs_toNat h
  have hboot : (bootTime h).toNat = (18446744073709551616 - uptime + wall) % 18446744073709551616 := by
    rw [bootTime, BitVec.toNat_sub, hwall, huptime]
  have hwall_lt : wall < 18446744073709551616 := hwall ▸ (wallNs h).isLt
  have huptime_lt : uptime < 18446744073709551616 := huptime ▸ (uptimeNs h).isLt
  omega

/-! ## The records (R157, R158) -/

/-- Settles O27: R158's reads are the big-endian values of R101's widths, at R101's offsets. -/
theorem recordFieldsFollowTheLayout : Obligations.RecordFieldsFollowTheLayout := by
  intro m w off
  simp only [recordAt, Inbuf.flowRecordAt, Inbuf.winRead_one, Inbuf.winRead_two, Inbuf.winRead_four, Nat.add_assoc,
    Nat.add_zero]

/-- A record lies wholly inside the payload exactly when it is before the first that does not. -/
theorem lt_recordCutAt_iff {i len : Nat} : i < recordCutAt len ↔ 24 + 48 * i + 48 ≤ len := by
  unfold recordCutAt
  split <;> omega

/-- A count of records is before the first cut one when the payload holds them, or when it is 0. -/
theorem le_recordCutAt_iff {count len : Nat} : count ≤ recordCutAt len ↔ count = 0 ∨ 24 + 48 * count ≤ len := by
  unfold recordCutAt
  split <;> omega

/-- The record loop up to the first cut record gives every record it comes to. -/
theorem decodeRecordsFrom_of_le {m : Inbuf} {w : Window} {count : Nat} : {todo i : Nat} →
    i + todo ≤ recordCutAt w.len → decodeRecordsFrom m w count i todo =
      .ok ((List.range' i todo).map fun j => m.flowRecordAt (w.base + 24 + 48 * j))
  | 0, _, _ => rfl
  | todo + 1, i, h => by
    have hfits : 24 + 48 * i + 48 ≤ w.len := lt_recordCutAt_iff.mp (by omega)
    rw [decodeRecordsFrom, if_neg (Nat.not_lt.mpr hfits), decodeRecordsFrom_of_le (by omega),
      recordFieldsFollowTheLayout, ← Nat.add_assoc]
    rfl

/-- A record loop that comes to the first cut record stops there. -/
theorem decodeRecordsFrom_of_cut {m : Inbuf} {w : Window} {count : Nat} : {todo i : Nat} →
    i ≤ recordCutAt w.len → recordCutAt w.len < i + todo → decodeRecordsFrom m w count i todo =
      raiseError .truncatedRecord .netflow (recordCutAt w.len) count w.len
  | 0, _, hle, hlt => absurd hlt (Nat.not_lt.mpr hle)
  | todo + 1, i, hle, hlt => by
    rcases Nat.lt_or_eq_of_le hle with hbefore | rfl
    · have hfits : 24 + 48 * i + 48 ≤ w.len := lt_recordCutAt_iff.mp hbefore
      rw [decodeRecordsFrom, if_neg (Nat.not_lt.mpr hfits), decodeRecordsFrom_of_cut hbefore (by omega)]
      rfl
    · have hcut : w.len < 24 + 48 * recordCutAt w.len + 48 :=
        Nat.lt_of_not_le fun h => Nat.lt_irrefl _ (lt_recordCutAt_iff.mpr h)
      rw [decodeRecordsFrom, if_pos hcut]

theorem decodeRecords_of_le {m : Inbuf} {w : Window} {count : Nat} (h : count ≤ recordCutAt w.len) :
    decodeRecords m w count = .ok (m.flowRecordsAt w.base count) := by
  rw [decodeRecords, decodeRecordsFrom_of_le (by omega), Inbuf.flowRecordsAt, List.range_eq_range']

theorem decodeRecords_of_cut {m : Inbuf} {w : Window} {count : Nat} (h : recordCutAt w.len < count) :
    decodeRecords m w count = raiseError .truncatedRecord .netflow (recordCutAt w.len) count w.len :=
  decodeRecordsFrom_of_cut (Nat.zero_le _) (by omega)

/-- A count that the payload does not hold reaches the first cut record. -/
theorem recordCutAt_lt {count len : Nat} (hcount : count ≠ 0) (hcut : len < 24 + 48 * count) :
    recordCutAt len < count :=
  Nat.lt_of_not_le fun h => (le_recordCutAt_iff.mp h).elim hcount (Nat.not_le.mpr hcut)

/-- Settles O26: the record loop is split at the first record that does not lie wholly inside the window. -/
theorem recordsDecodeOrTheFirstCutIsNamed : Obligations.RecordsDecodeOrTheFirstCutIsNamed := fun _ _ _ =>
  ⟨fun hwhole => decodeRecords_of_le (le_recordCutAt_iff.mpr hwhole),
    fun hcount hcut => decodeRecords_of_cut (recordCutAt_lt hcount hcut)⟩

/-- Settles O28: NF_RECORDS writes back what the record loop answers. -/
theorem nfRecordsDecodesOrNamesTheCut : Obligations.NfRecordsDecodesOrNamesTheCut := by
  refine ⟨fun _ => rfl, fun s count => ?_⟩
  have hzero : count = 0 ↔ count.toNat = 0 := BitVec.toNat_eq
  obtain ⟨hall, hcut⟩ := recordsDecodeOrTheFirstCutIsNamed s.inbuf s.wholeInbuf count.toNat
  rw [hzero]
  refine ⟨fun hwhole => ?_, fun hcount hshort => ?_⟩
  · simp only [exec, execNfRecords, immCount, hall hwhole]
    rfl
  · simp only [exec, execNfRecords, immCount, hcut (mt hzero.mpr hcount) hshort]
    rfl

/-! ## A whole message (R159) -/

theorem bind_ok_iff {α β : Type} {x : Except PipelineError α} {f : α → Except PipelineError β} {b : β} :
    (x >>= f) = .ok b ↔ ∃ a, x = .ok a ∧ f a = .ok b :=
  ⟨bind_ok, fun ⟨_, hx, hf⟩ => hx ▸ hf⟩

/-- What a Netflow decode commits for the message at address `p`. -/
def Inbuf.messageAt (m : Inbuf) (p : Nat) : DecodeResult :=
  ⟨some (m.headerAt p), bootTime (m.headerAt p), m.flowRecordsAt p (m.u16 (p + 2))⟩

/-- The committed message is the one in the terms of Safety. -/
theorem State.commitOk_messageAt (s : State) (p : Nat) : s.commitOk (s.inbuf.messageAt p) = s.messageDecoded p := rfl

/-- The header's count is the 16-bit value at its place. -/
theorem Inbuf.headerAt_count_toNat (m : Inbuf) (p : Nat) : (m.headerAt p).count.toNat = m.u16 (p + 2) :=
  (BitVec.toNat_ofNat ..).trans (Nat.mod_eq_of_lt (m.u16_lt _))

/-- R159: a Netflow decode answers exactly for a whole version 5 message, and gives that message. -/
theorem netflowDecode_ok_iff {m : Inbuf} {w : Window} {r : DecodeResult} :
    netflowDecode m w = .ok r ↔ MessageWhole m w.base w.len ∧ r = m.messageAt w.base := by
  have hcount := m.headerAt_count_toNat w.base
  constructor
  · intro h
    obtain ⟨hdr, hheader, h⟩ := bind_ok h
    obtain ⟨recs, hrecs, h⟩ := bind_ok h
    obtain ⟨hfits, hversion, rfl⟩ := decodeHeader_ok hheader
    rw [hcount] at hrecs
    rcases Nat.lt_or_ge (recordCutAt w.len) (m.u16 (w.base + 2)) with hcut | hle
    · rw [decodeRecords_of_cut hcut] at hrecs
      cases hrecs
    · rw [decodeRecords_of_le hle] at hrecs
      cases hrecs
      cases h
      have hwhole := le_recordCutAt_iff.mp hle
      exact ⟨⟨hversion, by omega⟩, rfl⟩
  · rintro ⟨⟨hversion, hwhole⟩, rfl⟩
    rw [netflowDecode, decodeHeader_of_version (by omega) hversion]
    refine bind_ok_iff.mpr ⟨_, rfl, bind_ok_iff.mpr ⟨_, ?_, rfl⟩⟩
    rw [hcount]
    exact decodeRecords_of_le (le_recordCutAt_iff.mpr (.inr hwhole))

/-- Settles O29: NF_DECODE writes back the message that the Netflow decode gives. -/
theorem nfDecodeDecodesAWholeMessage : Obligations.NfDecodeDecodesAWholeMessage := by
  intro s hwhole
  have hdecode := (netflowDecode_ok_iff (w := s.wholeInbuf)).mpr ⟨hwhole, rfl⟩
  simp only [exec, execNfDecode, hdecode, State.commit_ok]
  exact congrArg Host.Outcome.next (s.commitOk_messageAt 0)

end Sys2Proof.Machine
end

section
/-! PROOFS. When the chain decodes a message (spec/42_demux.md R180 to R185), and the bytes behind the last record: no
check and no field of a successful run lies there (spec/41_netflow_decoder.md R159). -/

namespace Sys2Proof.Machine

/-! ## The layers in front of a message -/

/-- The datagram at address `p` is for the port (R183). -/
def DatagramForPort (m : Inbuf) (port : Half) (p : Nat) : Prop := m.u16 (p + 2) = port.toNat

/-- The packet at address `p` is UDP, with a header of legal length, and its datagram is for the port (R181). -/
def PacketForPort (m : Inbuf) (port : Half) (p : Nat) : Prop :=
  5 ≤ m.u8 p % 16 ∧ m.u8 (p + 9) = 17 ∧ DatagramForPort m port (p + 4 * (m.u8 p % 16))

/-- The frame at address `p` is IPv4, with a packet for the port (R180). -/
def FrameForPort (m : Inbuf) (port : Half) (p : Nat) : Prop :=
  m.u16 (p + 12) = 0x0800 ∧ PacketForPort m port (p + 14)

/-- The layers that the chain takes off before the Netflow payload accept what stands at address `p` (R185). -/
def LayersAccept (m : Inbuf) (port : Half) (p : Nat) : Entry → Prop
  | .link => FrameForPort m port p
  | .network => PacketForPort m port p
  | .transport => DatagramForPort m port p
  | .netflow => True

/-- Where the Netflow payload starts in what stands at address `p` (R66). -/
def payloadFrom (m : Inbuf) (p : Nat) : Entry → Nat
  | .link => p + 14 + 4 * (m.u8 (p + 14) % 16) + 8
  | .network => p + 4 * (m.u8 p % 16) + 8
  | .transport => p + 8
  | .netflow => p

/-- Where the message ends whose header is at address `p` (R98, R101). -/
def messageEnd (m : Inbuf) (p : Nat) : Nat := p + 24 + 48 * m.u16 (p + 2)

/-! ## When a stage and the chain answer -/

section
variable {m : Inbuf} {port : Half} {w w' : Window} {r : DecodeResult}

theorem linkStage_ok_iff : linkStage m w = .ok w' ↔ 14 ≤ w.len ∧ m.u16 (w.base + 12) = 0x0800 ∧ w' = w.sub 14 := by
  rcases linkStage_cases m w with ⟨hlen, hc⟩ | ⟨hlen, htype, hc⟩ | ⟨hlen, htype, hc⟩ <;> rw [hc]
  · exact iff_of_false nofun fun ⟨hle, _⟩ => Nat.not_le.mpr hlen hle
  · exact iff_of_false nofun fun ⟨_, heq, _⟩ => htype heq
  · simp [hlen, htype, eq_comm]

theorem netStage_ok_iff : netStage m w = .ok w' ↔ 20 ≤ w.len ∧ 5 ≤ m.u8 w.base % 16 ∧
    4 * (m.u8 w.base % 16) ≤ w.len ∧ m.u8 (w.base + 9) = 17 ∧ w' = w.sub (4 * (m.u8 w.base % 16)) := by
  rcases netStage_cases m w with
    ⟨hlen, hc⟩ | ⟨-, hihl, hc⟩ | ⟨-, -, hopts, hc⟩ | ⟨-, -, -, hproto, hc⟩ | ⟨hlen, hihl, hopts, hproto, hc⟩ <;> rw [hc]
  · exact iff_of_false nofun fun ⟨hle, _⟩ => Nat.not_le.mpr hlen hle
  · exact iff_of_false nofun fun ⟨_, hle, _⟩ => Nat.not_le.mpr hihl hle
  · exact iff_of_false nofun fun ⟨_, _, hle, _⟩ => Nat.not_le.mpr hopts hle
  · exact iff_of_false nofun fun ⟨_, _, _, heq, _⟩ => hproto heq
  · simp [hlen, hihl, hopts, hproto, eq_comm]

theorem transportStage_ok_iff :
    transportStage m port w = .ok w' ↔ 8 ≤ w.len ∧ m.u16 (w.base + 2) = port.toNat ∧ w' = w.sub 8 := by
  rcases transportStage_cases m port w with ⟨hlen, hc⟩ | ⟨hlen, hport, hc⟩ | ⟨hlen, hport, hc⟩ <;> rw [hc]
  · exact iff_of_false nofun fun ⟨hle, _⟩ => Nat.not_le.mpr hlen hle
  · exact iff_of_false nofun fun ⟨_, heq, _⟩ => hport heq
  · simp [hlen, hport, eq_comm]

/-- The message at address `p` is whole, of version 5, inside the window, and what the decode gives. -/
def MessageGiven (m : Inbuf) (w : Window) (p : Nat) (r : DecodeResult) : Prop :=
  m.u16 p = 5 ∧ messageEnd m p ≤ w.base + w.len ∧ r = m.messageAt p

theorem netflowDecode_ok_iff_messageGiven : netflowDecode m w = .ok r ↔ MessageGiven m w w.base r := by
  rw [netflowDecode_ok_iff, MessageWhole, MessageGiven, messageEnd, and_assoc]
  refine and_congr_right fun _ => and_congr_left fun _ => ?_
  omega

/-- A message behind `k` bytes of a window is in the window exactly when it is in the inner payload there, if there is
one. -/
theorem messageGiven_sub_iff {k p : Nat} (hp : w.base + k ≤ p) :
    k ≤ w.len ∧ MessageGiven m (w.sub k) p r ↔ MessageGiven m w p r := by
  unfold MessageGiven messageEnd Window.sub
  dsimp only
  constructor
  · rintro ⟨hlen, hversion, hend, hr⟩
    exact ⟨hversion, by omega, hr⟩
  · rintro ⟨hversion, hend, hr⟩
    exact ⟨by omega, hversion, by omega, hr⟩

theorem chainTransport_ok_iff : chainTransport m port w = .ok r ↔
    DatagramForPort m port w.base ∧ MessageGiven m w (w.base + 8) r := by
  rw [← messageGiven_sub_iff (Nat.le_refl _)]
  refine bind_ok_iff.trans ⟨?_, ?_⟩
  · rintro ⟨_, hstage, hrest⟩
    obtain ⟨hlen, hport, rfl⟩ := transportStage_ok_iff.mp hstage
    exact ⟨hport, hlen, netflowDecode_ok_iff_messageGiven.mp hrest⟩
  · rintro ⟨hport, hlen, hgiven⟩
    exact ⟨_, transportStage_ok_iff.mpr ⟨hlen, hport, rfl⟩, netflowDecode_ok_iff_messageGiven.mpr hgiven⟩

theorem chainNetwork_ok_iff : chainNetwork m port w = .ok r ↔
    PacketForPort m port w.base ∧ MessageGiven m w (w.base + 4 * (m.u8 w.base % 16) + 8) r := by
  rw [← messageGiven_sub_iff (Nat.le_add_right _ 8)]
  refine bind_ok_iff.trans ⟨?_, ?_⟩
  · rintro ⟨_, hstage, hrest⟩
    obtain ⟨-, hihl, hopts, hproto, rfl⟩ := netStage_ok_iff.mp hstage
    obtain ⟨hport, hgiven⟩ := chainTransport_ok_iff.mp hrest
    exact ⟨⟨hihl, hproto, hport⟩, hopts, hgiven⟩
  · rintro ⟨⟨hihl, hproto, hport⟩, hopts, hgiven⟩
    exact ⟨_, netStage_ok_iff.mpr ⟨by omega, hihl, hopts, hproto, rfl⟩, chainTransport_ok_iff.mpr ⟨hport, hgiven⟩⟩

theorem chainLink_ok_iff : chainLink m port w = .ok r ↔
    FrameForPort m port w.base ∧ MessageGiven m w (w.base + 14 + 4 * (m.u8 (w.base + 14) % 16) + 8) r := by
  rw [← messageGiven_sub_iff (k := 14) (by omega)]
  refine bind_ok_iff.trans ⟨?_, ?_⟩
  · rintro ⟨_, hstage, hrest⟩
    obtain ⟨hlen, htype, rfl⟩ := linkStage_ok_iff.mp hstage
    obtain ⟨hpacket, hgiven⟩ := chainNetwork_ok_iff.mp hrest
    exact ⟨⟨htype, hpacket⟩, hlen, hgiven⟩
  · rintro ⟨⟨htype, hpacket⟩, hlen, hgiven⟩
    exact ⟨_, linkStage_ok_iff.mpr ⟨hlen, htype, rfl⟩, chainNetwork_ok_iff.mpr ⟨hpacket, hgiven⟩⟩

/-- R185: the chain answers exactly when the layers accept and the message behind them ends inside the window. No other
length matters. -/
theorem chain_ok_iff : {entry : Entry} → (chain m port w entry = .ok r ↔
    LayersAccept m port w.base entry ∧ MessageGiven m w (payloadFrom m w.base entry) r)
  | .link => chainLink_ok_iff
  | .network => chainNetwork_ok_iff
  | .transport => chainTransport_ok_iff
  | .netflow => netflowDecode_ok_iff_messageGiven.trans (and_iff_right trivial).symm

end

/-! ## The bytes behind the last record -/

/-- A chain that answers needs no byte behind the message's end. -/
theorem chain_ok_of_messageEnd_le {m : Inbuf} {port : Half} {entry : Entry} {w w' : Window} {r : DecodeResult}
    (h : chain m port w entry = .ok r) (hbase : w'.base = w.base)
    (hend : messageEnd m (payloadFrom m w.base entry) ≤ w'.base + w'.len) : chain m port w' entry = .ok r := by
  obtain ⟨hlayers, hversion, -, hr⟩ := chain_ok_iff.mp h
  rw [chain_ok_iff, hbase]
  exact ⟨hlayers, hversion, hend, hr⟩

/-- A chain that answers does so in every longer window. -/
theorem chain_ok_of_len_le {m : Inbuf} {port : Half} {entry : Entry} {w w' : Window} {r : DecodeResult}
    (h : chain m port w entry = .ok r) (hbase : w'.base = w.base) (hlen : w.len ≤ w'.len) :
    chain m port w' entry = .ok r := by
  obtain ⟨-, -, hend, -⟩ := chain_ok_iff.mp h
  exact chain_ok_of_messageEnd_le h hbase (by omega)

/-- The commands that run the chain, each from its entry, with the payload where R66 puts it. -/
theorem exec_eq_commit_chain {i : Instr}
    (hi : i ∈ [Instr.nfDecode, .enterTransport, .enterNetwork, .processFrame]) :
    ∃ entry, (∀ m, payloadFrom m 0 entry = payloadStart m i) ∧
      ∀ s, exec i s = .next (s.commit (chain s.inbuf s.cfgPort s.wholeInbuf entry)) := by
  simp only [List.mem_cons, List.not_mem_nil, or_false] at hi
  rcases hi with rfl | rfl | rfl | rfl
  · exact ⟨.netflow, fun _ => rfl, fun _ => rfl⟩
  · exact ⟨.transport, fun _ => rfl, fun _ => rfl⟩
  · exact ⟨.network, fun _ => by simp only [payloadFrom, payloadStart, Nat.zero_add], fun _ => rfl⟩
  · exact ⟨.link, fun _ => by simp only [payloadFrom, payloadStart, Nat.zero_add], fun _ => rfl⟩

/-- STATUS 0 after a write-back says that there was a result to write (R211, R230). -/
theorem eq_ok_of_commit_status {s : State} {r : Except PipelineError DecodeResult} (h : (s.commit r).status = 0) :
    ∃ q, r = .ok q := by
  cases r with
  | error e => exact absurd h e.code.statusValue_ne_zero
  | ok q => exact ⟨q, rfl⟩

/-- States that read alike up to `n`, an address inside both INBUFs, agree on the window of that length. -/
theorem agreeOn_of_readByte_eq {s t : State} {n : Nat} (hs : n ≤ s.inbufLen.toNat) (ht : n ≤ t.inbufLen.toNat)
    (hbytes : ∀ a, a < n → s.readByte a = t.readByte a) : AgreeOn ⟨0, n⟩ s.inbuf t.inbuf := by
  intro off hoff
  have hlt : off < n := hoff
  have hbyte := hbytes off hlt
  rw [State.readByte_of_lt (by omega), State.readByte_of_lt (by omega)] at hbyte
  simpa only [Nat.zero_add] using Option.some.inj hbyte

/-- Settles O30: the run is cut down to the message's end, where the two INBUFs agree, and let out again to the other's
length. -/
theorem trailingBytesAreIgnored : Obligations.TrailingBytesAreIgnored := by
  intro i hi s t u p msgEnd hexec hstatus hport htlen hbytes
  obtain ⟨entry, hpayload, hchain⟩ := exec_eq_commit_chain hi
  rw [hchain s] at hexec
  cases hexec
  obtain ⟨r, hs⟩ := eq_ok_of_commit_status hstatus
  have hmsgEnd : messageEnd s.inbuf (payloadFrom s.inbuf 0 entry) = msgEnd := by rw [hpayload]; rfl
  obtain ⟨-, -, hslen, -⟩ := chain_ok_iff.mp hs
  have hagree : AgreeOn ⟨0, msgEnd⟩ s.inbuf t.inbuf := by
    refine agreeOn_of_readByte_eq ?_ htlen hbytes
    simpa only [State.wholeInbuf, hmsgEnd, Nat.zero_add] using hslen
  have hcut : chain s.inbuf s.cfgPort ⟨0, msgEnd⟩ entry = .ok r :=
    chain_ok_of_messageEnd_le hs rfl (hmsgEnd.le.trans (Nat.le_add_left _ _))
  have ht : chain t.inbuf t.cfgPort t.wholeInbuf entry = .ok r := by
    rw [hagree.chain_eq, hport] at hcut
    exact chain_ok_of_len_le hcut rfl htlen
  exact ⟨_, _, hchain s, hchain t, by rw [hs, ht]; exact commit_sameOutput s t (.ok r)⟩

end Sys2Proof.Machine
end

section
/-! PROOFS. The demultiplexers (spec/42_demux.md): the messages that the two inner entries decode, what the outcome of a
rejected frame depends on (R184), and the payload of a layer as an INBUF of its own (R185 to R187). -/

namespace Sys2Proof.Machine

/-! ## The message behind the layers -/

/-- A chain command decodes the message that stands whole behind layers that accept (R185, R211). -/
theorem chainCommand_of_message {s : State} {entry : Entry} {p : Nat}
    (hlayers : LayersAccept s.inbuf s.cfgPort 0 entry) (hp : payloadFrom s.inbuf 0 entry = p)
    (hroom : p ≤ s.inbufLen.toNat) (hwhole : MessageWhole s.inbuf p (s.inbufLen.toNat - p)) :
    chainCommand entry s = .next (s.messageDecoded p) := by
  obtain ⟨hversion, hfits⟩ := hwhole
  have hend : messageEnd s.inbuf p ≤ s.wholeInbuf.base + s.wholeInbuf.len := by
    simp only [messageEnd, State.wholeInbuf]
    omega
  have hchain : chain s.inbuf s.cfgPort s.wholeInbuf entry = .ok (s.inbuf.messageAt p) :=
    chain_ok_iff.mpr ⟨hlayers, hp.symm ▸ ⟨hversion, hend, rfl⟩⟩
  rw [chainCommand, hchain, State.commit_ok, State.commitOk_messageAt]

/-- Settles O32: the one layer in front of the message is the UDP header. -/
theorem enterTransportDecodesADatagram : Obligations.EnterTransportDecodesADatagram :=
  fun _ hport hroom hwhole => chainCommand_of_message (entry := .transport) hport rfl hroom hwhole

/-- Settles O33: an IHL of 5 or more is a header of 20 bytes or more, and the UDP header stands behind it. -/
theorem enterNetworkDecodesAPacket : Obligations.EnterNetworkDecodesAPacket := by
  intro s hl hihl hproto hport hroom hwhole
  have hpacket : PacketForPort s.inbuf s.cfgPort 0 := by
    refine ⟨by omega, hproto, ?_⟩
    rwa [DatagramForPort, Nat.zero_add]
  refine chainCommand_of_message (entry := .network) hpacket ?_ hroom hwhole
  rw [payloadFrom, Nat.zero_add]

/-! ## Commands that commit one and the same outcome -/

theorem sameOutcome_of_commit {i j : Instr} {s t : State} {r r' : Except PipelineError DecodeResult}
    (hs : exec i s = .next (s.commit r)) (ht : exec j t = .next (t.commit r')) (h : r = r') :
    SameOutcome (exec i s) (exec j t) :=
  ⟨_, _, hs, ht, h ▸ commit_sameOutput s t r⟩

/-- Where a byte exists, reads that answer alike read the same number. -/
theorem u8_eq_of_readByte_eq {s t : State} {a b : Nat} (ha : a < s.inbufLen.toNat)
    (h : s.readByte a = t.readByte b) : s.inbuf.u8 a = t.inbuf.u8 b := by
  rw [State.readByte_of_lt ha] at h
  obtain ⟨-, hbyte⟩ := State.readByte_eq_some.mp h.symm
  rw [Inbuf.u8, Inbuf.u8, hbyte]

/-! ## The bytes each stage reads (R180 to R184) -/

/-- The two INBUFs hold the same bytes, or none, at these addresses. -/
def ReadAlike (s t : State) (addresses : List Nat) : Prop := ∀ a ∈ addresses, s.readByte a = t.readByte a

/-- Every byte of the window exists (R65). -/
def Window.Inside (w : Window) (s : State) : Prop := ∀ off, off < w.len → w.base + off < s.inbufLen.toNat

theorem State.wholeInbuf_inside (s : State) : s.wholeInbuf.Inside s := fun _ hoff => by
  rwa [State.wholeInbuf, Nat.zero_add]

theorem Window.Inside.sub {w : Window} {s : State} (h : w.Inside s) (k : Nat) : (w.sub k).Inside s := fun off hoff => by
  have hoff : off < w.len - k := hoff
  simpa only [Window.sub, Nat.add_assoc] using h (k + off) (by omega)

section
variable {s t : State} {port : Half} {w : Window}

theorem Window.Inside.u8_eq (h : w.Inside s) {off : Nat} (hoff : off < w.len)
    (hbyte : s.readByte (w.base + off) = t.readByte (w.base + off)) :
    s.inbuf.u8 (w.base + off) = t.inbuf.u8 (w.base + off) :=
  u8_eq_of_readByte_eq (h off hoff) hbyte

theorem Window.Inside.u16_eq (h : w.Inside s) {off : Nat} (hoff : off + 1 < w.len)
    (hhigh : s.readByte (w.base + off) = t.readByte (w.base + off))
    (hlow : s.readByte (w.base + off + 1) = t.readByte (w.base + off + 1)) :
    s.inbuf.u16 (w.base + off) = t.inbuf.u16 (w.base + off) := by
  rw [Inbuf.u16, Inbuf.u16, h.u8_eq (Nat.lt_of_succ_lt hoff) hhigh, Nat.add_assoc, h.u8_eq hoff hlow]

/-- The link stage reads the type alone. -/
theorem linkStage_congr (hin : w.Inside s) (htype : ReadAlike s t [w.base + 12, w.base + 13]) :
    linkStage s.inbuf w = linkStage t.inbuf w :=
  bind_congr_of_ok rfl fun _ hlen => by
    have hlen := requireLen_ok hlen
    simp only [Inbuf.winRead_two, hin.u16_eq (by omega) (htype (w.base + 12) (by simp)) (htype (w.base + 13) (by simp))]

/-- The network stage reads the byte of the IHL and the protocol alone. -/
theorem netStage_congr (hin : w.Inside s) (hbytes : ReadAlike s t [w.base, w.base + 9]) :
    netStage s.inbuf w = netStage t.inbuf w :=
  bind_congr_of_ok rfl fun _ hlen => by
    have hlen := requireLen_ok hlen
    simp only [ihlOf, Inbuf.winRead_one, hin.u8_eq (off := 0) (by omega) (hbytes w.base (by simp)),
      hin.u8_eq (by omega) (hbytes (w.base + 9) (by simp))]

/-- The transport stage reads the destination port alone. -/
theorem transportStage_congr (hin : w.Inside s) (hdport : ReadAlike s t [w.base + 2, w.base + 3]) :
    transportStage s.inbuf port w = transportStage t.inbuf port w :=
  bind_congr_of_ok rfl fun _ hlen => by
    have hlen := requireLen_ok hlen
    simp only [Inbuf.winRead_two, hin.u16_eq (by omega) (hdport (w.base + 2) (by simp)) (hdport (w.base + 3) (by simp))]

end

/-! ## A rejected frame is not read further (R184) -/

section
variable {m : Inbuf} {port : Half} {w : Window} {e : PipelineError}

theorem netStage_error (h : netStage m w = .error e) : e.stage = .network := by
  rcases netStage_cases m w with ⟨-, hc⟩ | ⟨-, -, hc⟩ | ⟨-, -, -, hc⟩ | ⟨-, -, -, -, hc⟩ | ⟨-, -, -, -, hc⟩ <;>
    rw [hc] at h <;> cases h <;> rfl

theorem transportStage_error (h : transportStage m port w = .error e) : e.stage = .transport := by
  rcases transportStage_cases m port w with ⟨-, hc⟩ | ⟨-, -, hc⟩ | ⟨-, -, hc⟩ <;> rw [hc] at h <;> cases h <;> rfl

/-- An error of the chain carries the tag of its entry stage or of a stage behind it. -/
theorem chainTransport_error (h : chainTransport m port w = .error e) : e.stage = .transport ∨ e.stage = .netflow := by
  obtain h | ⟨_, -, h⟩ := bind_error h
  · exact .inl (transportStage_error h)
  · exact .inr (netflowDecode_error h).1

theorem chainNetwork_error (h : chainNetwork m port w = .error e) :
    e.stage = .network ∨ e.stage = .transport ∨ e.stage = .netflow := by
  obtain h | ⟨_, -, h⟩ := bind_error h
  · exact .inl (netStage_error h)
  · exact .inr (chainTransport_error h)

end

/-- Two sequences that begin alike, the first with an error, are alike when what follows is wherever it raises that
error. -/
theorem bind_congr_of_error {α β : Type} {x y : Except PipelineError α} {f g : α → Except PipelineError β}
    {e : PipelineError} (h : (x >>= f) = .error e) (hxy : x = y)
    (hfg : ∀ a, x = .ok a → f a = .error e → f a = g a) : (x >>= f) = (y >>= g) :=
  bind_congr_of_ok hxy fun a ha => hfg a ha (by rwa [ha] at h)

/-! An error is raised in what stands at address `p`, and the INBUFs agree at the bytes that the error's stage and the
stages before it read there. -/

def RejectedDatagramAlike (s t : State) (p : Nat) (stage : Stage) : Prop :=
  ReadAlike s t [p + 2, p + 3] ∧ stage = .transport

def RejectedPacketAlike (s t : State) (p : Nat) (stage : Stage) : Prop :=
  ReadAlike s t [p, p + 9] ∧ (stage = .network ∨ RejectedDatagramAlike s t (p + 4 * (s.inbuf.u8 p % 16)) stage)

def RejectedFrameAlike (s t : State) (p : Nat) (stage : Stage) : Prop :=
  ReadAlike s t [p + 12, p + 13] ∧ (stage = .link ∨ RejectedPacketAlike s t (p + 14) stage)

section
variable {s t : State} {port : Half} {w : Window} {e : PipelineError}

theorem chainTransport_congr_of_error (hin : w.Inside s) (h : chainTransport s.inbuf port w = .error e)
    (halike : RejectedDatagramAlike s t w.base e.stage) :
    chainTransport s.inbuf port w = chainTransport t.inbuf port w := by
  obtain ⟨hdport, hstage⟩ := halike
  refine bind_congr_of_error h (transportStage_congr hin hdport) fun _ _ he => ?_
  cases hstage.symm.trans (netflowDecode_error he).1

theorem chainNetwork_congr_of_error (hin : w.Inside s) (h : chainNetwork s.inbuf port w = .error e)
    (halike : RejectedPacketAlike s t w.base e.stage) :
    chainNetwork s.inbuf port w = chainNetwork t.inbuf port w := by
  obtain ⟨hbytes, hstage⟩ := halike
  refine bind_congr_of_error h (netStage_congr hin hbytes) fun _ hw' he => ?_
  rw [netStage_ok_eq hw'] at he ⊢
  rcases hstage with hstage | hdatagram
  · simpa [hstage] using chainTransport_error he
  · exact chainTransport_congr_of_error (hin.sub _) he hdatagram

theorem chainLink_congr_of_error (hin : w.Inside s) (h : chainLink s.inbuf port w = .error e)
    (halike : RejectedFrameAlike s t w.base e.stage) : chainLink s.inbuf port w = chainLink t.inbuf port w := by
  obtain ⟨htype, hstage⟩ := halike
  refine bind_congr_of_error h (linkStage_congr hin htype) fun _ hw' he => ?_
  rw [linkStage_ok_eq hw'] at he ⊢
  rcases hstage with hstage | hpacket
  · simpa [hstage] using chainNetwork_error he
  · exact chainNetwork_congr_of_error (hin.sub 14) he hpacket

end

theorem Stage.tagValue_injective {stage stage' : Stage} (h : stage.tagValue = stage'.tagValue) : stage = stage' := by
  revert h
  cases stage <;> cases stage' <;> decide

/-- ERR_STAGE of a stage after a write-back says that an error of that stage was written (R231, R236). -/
theorem eq_error_of_commit_errStage {s : State} {r : Except PipelineError DecodeResult} {stage : Stage}
    (h : (s.commit r).errStage = stage.tagValue) (hstage : stage ≠ .none) : ∃ e, r = .error e ∧ e.stage = stage := by
  rcases commit_cases s r with ⟨-, hzero, -⟩ | ⟨e, rfl, -, htag⟩
  · exact absurd (Stage.tagValue_injective (stage' := .none) (h.symm.trans hzero)) hstage
  · exact ⟨e, rfl, Stage.tagValue_injective (htag.symm.trans h)⟩

/-- R184: PROCESS_FRAME answers alike for INBUFs that agree as far as the rejecting stage read. -/
theorem processFrame_sameOutcome_of_rejected {s t : State} {stage : Stage} (hlen : s.inbufLen = t.inbufLen)
    (hport : s.cfgPort = t.cfgPort) (hstage : stage ≠ .none)
    (htag : (s.commit (chainLink s.inbuf s.cfgPort s.wholeInbuf)).errStage = stage.tagValue)
    (halike : RejectedFrameAlike s t 0 stage) : SameOutcome (exec .processFrame s) (exec .processFrame t) := by
  obtain ⟨e, he, rfl⟩ := eq_error_of_commit_errStage htag hstage
  obtain ⟨r, hs, ht⟩ := chainCommand_commits (entry := .link) hlen hport
    (chainLink_congr_of_error s.wholeInbuf_inside he halike)
  exact sameOutcome_of_commit hs ht rfl

/-- Settles O36: the bytes given are those that the stages up to the one named by ERR_STAGE read. -/
theorem aRejectedFrameIsNotReadFurther : Obligations.ARejectedFrameIsNotReadFurther := by
  intro s t u hlen hport hexec udp
  cases hexec
  refine ⟨fun htag hbytes => ?link, fun htag hbytes => ?network, fun htag hbytes => ?transport⟩
  case link =>
    exact processFrame_sameOutcome_of_rejected (stage := .link) hlen hport nofun htag ⟨hbytes, .inl rfl⟩
  case network =>
    obtain ⟨htype, hnet⟩ := List.forall_mem_append (l₁ := [12, 13]).mp hbytes
    exact processFrame_sameOutcome_of_rejected (stage := .network) hlen hport nofun htag
      ⟨htype, .inr ⟨hnet, .inl rfl⟩⟩
  case transport =>
    obtain ⟨htype, hrest⟩ := List.forall_mem_append (l₁ := [12, 13]).mp hbytes
    obtain ⟨hnet, hdport⟩ := List.forall_mem_append (l₁ := [14, 23]).mp hrest
    exact processFrame_sameOutcome_of_rejected (stage := .transport) hlen hport nofun htag
      ⟨htype, .inr ⟨hnet, .inr ⟨hdport, rfl⟩⟩⟩

/-! ## The payload of a layer as an INBUF of its own (R185 to R187) -/

/-- Two windows show the same bytes, wherever they stand. -/
structure SamePayload (m : Inbuf) (w : Window) (m' : Inbuf) (w' : Window) : Prop where
  len   : w.len = w'.len
  bytes : ∀ off, off < w.len → m.u8 (w.base + off) = m'.u8 (w'.base + off)

/-- Reads at two addresses are alike when the bytes there are. -/
theorem memRead_eq_of_u8_eq {m m' : Inbuf} {a a' : Nat} : {n : Nat} →
    (∀ k, k < n → m.u8 (a + k) = m'.u8 (a' + k)) → m.memRead a n = m'.memRead a' n
  | 0, _ => rfl
  | n + 1, h => by
    have ih : m.memRead a n = m'.memRead a' n := memRead_eq_of_u8_eq fun k hk => h k (Nat.lt_succ_of_lt hk)
    rw [Inbuf.memRead_succ, Inbuf.memRead_succ, ih, h n (Nat.lt_succ_self n)]

section
variable {m m' : Inbuf} {w w' : Window}

theorem SamePayload.winRead_eq (h : SamePayload m w m' w') {off n : Nat} (hfits : off + n ≤ w.len) :
    m.winRead w off n = m'.winRead w' off n :=
  memRead_eq_of_u8_eq fun k hk => by
    simpa only [Nat.add_assoc] using h.bytes (off + k) (by omega)

theorem SamePayload.sub (h : SamePayload m w m' w') (k : Nat) : SamePayload m (w.sub k) m' (w'.sub k) where
  len := congrArg (· - k) h.len
  bytes off hoff := by
    have hoff : off < w.len - k := hoff
    simpa only [Window.sub, Nat.add_assoc] using h.bytes (k + off) (by omega)

/-- A header read at the same place of both windows, and what follows it. -/
theorem SamePayload.hdrRead_bind {α : Type} (h : SamePayload m w m' w') {pos n : Nat}
    {f g : Nat × Cursor → Except PipelineError α} (hfg : ∀ v, f (v, ⟨w, pos + n⟩) = g (v, ⟨w', pos + n⟩)) :
    (hdrRead m ⟨w, pos⟩ n >>= f) = (hdrRead m' ⟨w', pos⟩ n >>= g) := by
  rcases Nat.lt_or_ge w.len (pos + n) with hshort | hfits
  · rw [hdrRead_of_short hshort, hdrRead_of_short (c := ⟨w', pos⟩) (h.len ▸ hshort), h.len]
    rfl
  · rw [hdrRead_of_fits hfits, hdrRead_of_fits (c := ⟨w', pos⟩) (h.len ▸ hfits), h.winRead_eq hfits]
    exact hfg _

theorem SamePayload.decodeHeader_eq (h : SamePayload m w m' w') : decodeHeader m w = decodeHeader m' w' := by
  unfold decodeHeader
  iterate 9 refine h.hdrRead_bind fun _ => ?_
  rfl

theorem SamePayload.recordAt_eq (h : SamePayload m w m' w') {off : Nat} (hfits : off + 48 ≤ w.len) :
    recordAt m w off = recordAt m' w' off := by
  have hread : ∀ d n, d + n ≤ 48 → m.winRead w (off + d) n = m'.winRead w' (off + d) n :=
    fun d n hd => h.winRead_eq (by omega)
  simp (disch := decide) only [recordAt, hread]

theorem SamePayload.decodeRecordsFrom_eq (h : SamePayload m w m' w') (count : Nat) :
    ∀ todo i, decodeRecordsFrom m w count i todo = decodeRecordsFrom m' w' count i todo
  | 0, _ => rfl
  | todo + 1, i => by
    unfold decodeRecordsFrom
    rw [← h.len]
    split
    · rfl
    · rw [h.decodeRecordsFrom_eq count todo (i + 1), h.recordAt_eq (by omega)]

theorem SamePayload.netflowDecode_eq (h : SamePayload m w m' w') : netflowDecode m w = netflowDecode m' w' := by
  simp only [netflowDecode, decodeRecords, h.decodeHeader_eq, h.decodeRecordsFrom_eq]

theorem raiseError_bind {α β : Type} (code : ErrCode) (stage : Stage) (a b c : Nat) (f : α → Except PipelineError β) :
    (raiseError code stage a b c >>= f) = raiseError code stage a b c := rfl

theorem SamePayload.requireLen_eq (h : SamePayload m w m' w') (n : Nat) (stage : Stage) :
    requireLen w n stage = requireLen w' n stage := by
  rw [requireLen, requireLen, h.len]

theorem SamePayload.chainTransport_eq (h : SamePayload m w m' w') (port : Half) :
    chainTransport m port w = chainTransport m' port w' := by
  simp only [chainTransport, transportStage, bind_assoc]
  refine bind_congr_of_ok (h.requireLen_eq 8 .transport) fun _ hlen => ?_
  have hlen := requireLen_ok hlen
  rw [← h.winRead_eq (off := 2) (n := 2) (by omega)]
  split
  · rw [raiseError_bind, raiseError_bind]
  · exact (h.sub 8).netflowDecode_eq

theorem SamePayload.chainNetwork_eq (h : SamePayload m w m' w') (port : Half) :
    chainNetwork m port w = chainNetwork m' port w' := by
  simp only [chainNetwork, netStage, bind_assoc]
  refine bind_congr_of_ok (h.requireLen_eq 20 .network) fun _ hlen => ?_
  have hlen := requireLen_ok hlen
  have hihl : ihlOf m w = ihlOf m' w' := congrArg (· % 16) (h.winRead_eq (off := 0) (n := 1) (by omega))
  rw [← hihl, ← h.len, ← h.winRead_eq (off := 9) (n := 1) (by omega)]
  split
  · rw [raiseError_bind, raiseError_bind]
  split
  · rw [raiseError_bind, raiseError_bind]
  split
  · rw [raiseError_bind, raiseError_bind]
  · exact (h.sub _).chainTransport_eq port

end

/-- An INBUF without its first `k` bytes is the inner payload at `k` of the whole. -/
theorem samePayload_of_stripped {s t : State} {k : Nat} (hlen : s.inbufLen.toNat = t.inbufLen.toNat + k)
    (hbytes : ∀ a, t.readByte a = s.readByte (a + k)) :
    SamePayload s.inbuf (s.wholeInbuf.sub k) t.inbuf t.wholeInbuf where
  len := Nat.sub_eq_of_eq_add hlen
  bytes off hoff := by
    have hoff : off < s.inbufLen.toNat - k := hoff
    have hbyte : t.inbuf.u8 off = s.inbuf.u8 (off + k) := u8_eq_of_readByte_eq (by omega) (hbytes off)
    simpa only [Window.sub, State.wholeInbuf, Nat.zero_add, Nat.add_comm k off] using hbyte.symm

theorem le_wholeInbuf_len {s t : State} {k : Nat} (hlen : s.inbufLen.toNat = t.inbufLen.toNat + k) :
    k ≤ s.wholeInbuf.len := (Nat.le_add_left k _).trans hlen.ge

/-- Settles O37: behind the link stage the chain runs on the frame's payload, which is the other INBUF. -/
theorem enterNetworkMatchesProcessFrame : Obligations.EnterNetworkMatchesProcessFrame := by
  intro s t htype hlen hbytes hport
  have hlink : linkStage s.inbuf s.wholeInbuf = .ok (s.wholeInbuf.sub 14) :=
    linkStage_ok_iff.mpr ⟨le_wholeInbuf_len hlen, htype, rfl⟩
  refine sameOutcome_of_commit rfl rfl ?_
  calc chainLink s.inbuf s.cfgPort s.wholeInbuf
      = chainNetwork s.inbuf s.cfgPort (s.wholeInbuf.sub 14) := by rw [chainLink, hlink]; rfl
    _ = chainNetwork t.inbuf t.cfgPort t.wholeInbuf := by
      rw [hport, (samePayload_of_stripped hlen hbytes).chainNetwork_eq]

/-- Settles O38: behind the network stage the chain runs on the packet's datagram, which is the other INBUF. -/
theorem enterTransportMatchesEnterNetwork : Obligations.EnterTransportMatchesEnterNetwork := by
  intro s t hl hihl hproto hlen hbytes hport
  have hnet : netStage s.inbuf s.wholeInbuf = .ok (s.wholeInbuf.sub hl) := by
    have hroom := le_wholeInbuf_len hlen
    have hfive : 5 ≤ s.inbuf.u8 0 % 16 := by omega
    exact netStage_ok_iff.mpr ⟨hihl.trans hroom, hfive, hroom, hproto, rfl⟩
  refine sameOutcome_of_commit rfl rfl ?_
  calc chainNetwork s.inbuf s.cfgPort s.wholeInbuf
      = chainTransport s.inbuf s.cfgPort (s.wholeInbuf.sub hl) := by rw [chainNetwork, hnet]; rfl
    _ = chainTransport t.inbuf t.cfgPort t.wholeInbuf := by
      rw [hport, (samePayload_of_stripped hlen hbytes).chainTransport_eq]

/-- Settles O39: behind the transport stage the Netflow decode runs on the datagram's payload, which is the other
INBUF. -/
theorem nfDecodeMatchesEnterTransport : Obligations.NfDecodeMatchesEnterTransport := by
  intro s t hport hlen hbytes
  have htransport : transportStage s.inbuf s.cfgPort s.wholeInbuf = .ok (s.wholeInbuf.sub 8) :=
    transportStage_ok_iff.mpr ⟨le_wholeInbuf_len hlen, hport, rfl⟩
  refine sameOutcome_of_commit rfl rfl ?_
  calc chainTransport s.inbuf s.cfgPort s.wholeInbuf
      = netflowDecode s.inbuf (s.wholeInbuf.sub 8) := by rw [chainTransport, htransport]; rfl
    _ = netflowDecode t.inbuf t.wholeInbuf := (samePayload_of_stripped hlen hbytes).netflowDecode_eq

end Sys2Proof.Machine
end

section
/-! PROOFS. The pipeline and the control of the block (spec/43_pipeline_and_control.md): how a command reaches `exec`,
which host actions have a move and what the others stop with, and the registers each class of commands writes. -/

namespace Sys2Proof.Machine

/-! ## From the host's word to the command (R210) -/

/-- Settles O6: the step is the host's first action, and the action executes the word. -/
theorem stepRunsTheDecodedCommand : Obligations.StepRunsTheDecodedCommand :=
  fun _ _ _ _ hhost hdecode => (step_of_host hhost).trans (executeWord_of_decode hdecode _)

/-- Settles O7: the placed word is the command's own, and taking it off the list gives back the state it was placed
in. -/
theorem placedCommandRunsNext : Obligations.PlacedCommandRunsNext := by
  intro i s
  have hhost : (s.withFetchWord 32 (encode i).toNat).host = .command (encode i) :: s.host := by
    rw [State.withFetchWord, tableWord_toNat]
  exact stepRunsTheDecodedCommand _ _ _ _ hhost (encodedCommandDecodesToItself i)

/-- Settles O9: the idle host's arm of the step (log entry 2). -/
theorem idleHostLeavesTheStateAlone : Obligations.IdleHostLeavesTheStateAlone := by
  intro s hidle
  simp only [step, hostStep, hidle]

/-! ## Host actions with no move (R216; log entries 7 and 8) -/

theorem hostAct_read_inbufByte_of_le {s : State} {a : Nat} (h : s.inbufLen.toNat ≤ a) :
    hostAct (.read (.inbufByte a)) s = .fault .inbufAddress := by
  have hnone : s.hostRead (.inbufByte a) = none := by rw [State.hostRead, State.readByte_of_le h, Option.map_none]
  simp only [hostAct, hostReadAction, hnone]

theorem hostAct_read_recField_of_le {s : State} {i : Nat} (f : RecField) (h : s.recCount.toNat ≤ i) :
    hostAct (.read (.recField i f)) s = .fault .noSuchRecord := by
  have hnone : s.hostRead (.recField i f) = none := if_neg (Nat.not_lt.mpr h)
  simp only [hostAct, hostReadAction, hnone]

/-- Settles O14: two actions stop in every state, and two reads where their target does not exist. -/
theorem hostActionsWithNoMoveStop : Obligations.HostActionsWithNoMoveStop := by
  intro s rest
  refine ⟨fun r v hhost => ?write, fun hhost => ?port, fun a hhost hle => ?inbuf, fun i f hhost hle => ?record⟩
  all_goals rw [step_of_host hhost]
  case write => rfl
  case port => rfl
  case inbuf => exact hostAct_read_inbufByte_of_le hle
  case record => exact hostAct_read_recField_of_le f hle

/-! ## Host actions with a move go on (R217, R244) -/

/-- Whether an action has a move does not depend on the host's list. -/
theorem HostAction.HasMove.withHost {action : HostAction} {s : State} (h : action.HasMove s)
    (rest : List HostAction) : action.HasMove { s with host := rest } := by
  cases action <;> exact h

/-- In a state that meets R25 every word goes on, legal or not. -/
theorem executeWord_goes_on (w : Word) {s : State} (h : s.CursorLegal) : ∃ t, executeWord w s = .next t := by
  cases hlegal : legalWord w with
  | false => exact ⟨_, executeWord_of_illegal hlegal s⟩
  | true =>
    obtain ⟨i, hdecode⟩ := decode_of_legal hlegal
    rw [executeWord_of_decode hdecode]
    exact exec_goes_on i h.sliceInInbuf

theorem hostAct_goes_on {action : HostAction} {s : State} (hs : s.CursorLegal) (hmove : action.HasMove s) :
    ∃ t, hostAct action s = .next t := by
  cases action with
  | reset => exact ⟨_, rfl⟩
  | loadInbuf bytes => exact ⟨_, hostAct_loadInbuf_of_le s hmove⟩
  | command w => exact executeWord_goes_on w hs
  | read target => exact ⟨_, hostAct_read_of_isSome hmove⟩
  | writeRegister r v => exact hmove.elim

/-- Of a legal state only R25 is needed for the step to go on. -/
theorem step_goes_on {s : State} (hs : s.CursorLegal)
    (hmove : ∀ action rest, s.host = action :: rest → action.HasMove s) : ∃ t, step s = .next t := by
  cases hhost : s.host with
  | nil => exact ⟨s, idleHostLeavesTheStateAlone s hhost⟩
  | cons action rest =>
    rw [step_of_host hhost]
    exact hostAct_goes_on (cursorLegal_kept.host rest hs) ((hmove action rest hhost).withHost rest)

/-- Settles O51: the step goes on, and a step that goes on keeps the state legal. -/
theorem noAllowedActionStopsTheMachine : Obligations.NoAllowedActionStopsTheMachine := by
  intro s hs hmove
  obtain ⟨t, hstep⟩ := step_goes_on hs.cursor hmove
  exact ⟨t, hstep, stepKeepsTheStateLegal s t hs hstep⟩

/-! ## What each class of commands writes (R212) -/

/-- Settles O23: CFG_SET_PORT has no case to split, nor has its word. -/
theorem setPortWritesThePort : Obligations.SetPortWritesThePort :=
  ⟨fun _ => rfl, fun _ _ => congrArg Host.Outcome.next (State.statusOk_eq_withStatus _)⟩

theorem exec_cfgSetPort_kept {port : Half} {s t : State} (h : exec (.cfgSetPort port) s = .next t) :
    SameResult s t ∧ SameCursor s t := by
  cases h
  exact ⟨⟨rfl, rfl, rfl, rfl, rfl⟩, ⟨rfl, rfl, rfl⟩⟩

theorem exec_decodeClass_kept {i : Instr} {s t : State} (hd : decodeClass i = true) (h : exec i s = .next t) :
    t.cfgPort = s.cfgPort ∧ SameCursor s t := by
  obtain ⟨r, hcommit⟩ := exec_decodeClass hd s
  rw [hcommit] at h
  cases h
  exact ⟨s.commit_cfgPort r, s.commit_curLen r, s.commit_curPos r, s.commit_curData r⟩

/-- No command is of both classes. -/
theorem cursorClass_of_decodeClass {i : Instr} (hd : decodeClass i = true) : cursorClass i = false := by
  cases i with
  | cfgSetPort | curBind | curRead8 | curRead16 | curRead32 | curSkip => cases hd
  | nfHeader | nfRecords | nfDecode | processFrame | enterNetwork | enterTransport => rfl

theorem CursorMove.kept {s t : State} (h : CursorMove s t) : t.cfgPort = s.cfgPort ∧ SameResult s t := by
  rcases h with ⟨_, _, _, rfl⟩ | ⟨_, _, -, rfl⟩ <;> exact ⟨rfl, rfl, rfl, rfl, rfl, rfl⟩

theorem exec_cursorClass_kept {i : Instr} {s t : State} (hc : cursorClass i = true) (h : exec i s = .next t) :
    t.cfgPort = s.cfgPort ∧ SameResult s t := by
  rcases exec_cases h with ⟨hd, -⟩ | ⟨_, rfl, -⟩ | ⟨-, rfl⟩ | ⟨-, -, hmove⟩
  · rw [cursorClass_of_decodeClass hd] at hc
    cases hc
  · cases hc
  · exact ⟨rfl, rfl, rfl, rfl, rfl, rfl⟩
  · exact hmove.kept

/-- R235: an illegal word writes the status group alone. -/
theorem State.illegalCommand_kept (s : State) (w : Word) :
    (s.illegalCommand w).cfgPort = s.cfgPort ∧ SameResult s (s.illegalCommand w) ∧
      SameCursor s (s.illegalCommand w) :=
  ⟨rfl, ⟨rfl, rfl, rfl, rfl, rfl⟩, ⟨rfl, rfl, rfl⟩⟩

/-- Settles O40, class by class. -/
theorem commandsWriteOnlyTheirRegisters : Obligations.CommandsWriteOnlyTheirRegisters := by
  refine ⟨fun i s t h => ?_, fun w s t hillegal h => ?_⟩
  · obtain ⟨hhost, -, -⟩ := exec_kept h
    exact ⟨exec_sameInbuf h, hhost, fun hd => exec_decodeClass_kept hd h, fun hc => exec_cursorClass_kept hc h,
      fun port hport => exec_cfgSetPort_kept (hport ▸ h)⟩
  · rw [executeWord_of_illegal hillegal] at h
    cases h
    exact ⟨.of_eq (s.illegalCommand_inbuf w) (s.illegalCommand_inbufLen w), s.illegalCommand_host w,
      s.illegalCommand_kept w⟩

/-! ## The message in a frame (R213) -/

/-- Settles O34: the packet stands behind the 14 bytes of the link header, and its IHL says where the UDP header is. -/
theorem processFrameDecodesAFrame : Obligations.ProcessFrameDecodesAFrame := by
  intro s hl htype hihl hproto hport hroom hwhole
  have hfive : 5 ≤ s.inbuf.u8 14 % 16 := by omega
  have hpacket : PacketForPort s.inbuf s.cfgPort 14 := ⟨hfive, hproto, hport⟩
  exact chainCommand_of_message (entry := .link) ⟨htype, hpacket⟩ rfl hroom hwhole

end Sys2Proof.Machine
end

section
/-! PROOFS. Errors (spec/60_exceptions.md): what a raised error leaves in the registers (R232, R233, R236), which errors
a command can report (R234), that every word ends in a listed STATUS (R244), and that the error reported is the first of
the fixed order (R240). -/

namespace Sys2Proof.Machine

/-! ## A raised error in the terms of Safety (R232, R233) -/

/-- What is raised is the rejection: its code and its stage tag as numbers, and its detail words as they stand. -/
inductive Raises {α : Type} : Except PipelineError α → Rejection → Prop where
  | intro (code : ErrCode) (stage : Stage) (a b c : Nat) :
      Raises (raiseError code stage a b c) (code.statusValue, stage.tagValue, a, b, c)

theorem raises_of_eq {α : Type} {x : Except PipelineError α} {code : ErrCode} {stage : Stage} {a b c : Nat}
    (h : x = raiseError code stage a b c) : Raises x (code.statusValue, stage.tagValue, a, b, c) :=
  h ▸ .intro code stage a b c

/-- R233: an error passes unchanged over what would have followed. -/
theorem Raises.bind {α β : Type} {x : Except PipelineError α} {r : Rejection} (h : Raises x r)
    (f : α → Except PipelineError β) : Raises (x >>= f) r := by
  cases h with
  | intro code stage a b c => exact .intro code stage a b c

/-- R236: the write-back of a raised error. -/
theorem Raises.commit_eq {x : Except PipelineError DecodeResult} {r : Rejection} (h : Raises x r) (s : State) :
    s.commit x = s.rejectedWith r := by
  cases h with
  | intro code stage a b c => exact s.rejected_eq_commitErr stage code a b c

/-- Every error is raised as some rejection: its detail words are numbers that fit. -/
theorem exists_raises {α : Type} (e : PipelineError) : ∃ r, Raises (α := α) (.error e) r := by
  have hraise : .error e = raiseError (α := α) e.code e.stage e.a.toNat e.b.toNat e.c.toNat := by
    simp only [raiseError, BitVec.ofNat_toNat, BitVec.setWidth_eq]
  exact ⟨_, raises_of_eq hraise⟩

/-- Settles O42: a write-back that does not leave STATUS 0 is that of an error. -/
theorem aFailedDecodeLeavesNoResult : Obligations.AFailedDecodeLeavesNoResult := by
  intro i s t hd h hstatus
  obtain ⟨x, hcommit⟩ := exec_decodeClass hd s
  rw [hcommit] at h
  cases h
  rcases commit_cases s x with ⟨hzero, -⟩ | ⟨e, rfl, -⟩
  · exact absurd hzero hstatus
  · obtain ⟨_, hraises⟩ := exists_raises e
    exact ⟨_, _, _, _, _, hraises.commit_eq s⟩

/-! ## The errors a command can report (R234) -/

/-- Whatever error is answered, its code and its stage tag are one of these pairs. -/
def ErrorsIn {α : Type} (pairs : List (Byte × Byte)) (x : Except PipelineError α) : Prop :=
  ∀ e, x = .error e → (e.code.statusValue, e.stage.tagValue) ∈ pairs

theorem errorsIn_ok {α : Type} (a : α) : ErrorsIn [] (.ok a) := nofun

theorem errorsIn_of_ok {α : Type} {pairs : List (Byte × Byte)} {x : Except PipelineError α} {a : α} (h : x = .ok a) :
    ErrorsIn pairs x := by
  rw [h]
  exact nofun

theorem errorsIn_of_raiseError {α : Type} {pairs : List (Byte × Byte)} {x : Except PipelineError α} {code : ErrCode}
    {stage : Stage} {a b c : Nat} (h : x = raiseError code stage a b c)
    (hmem : (code.statusValue, stage.tagValue) ∈ pairs) : ErrorsIn pairs x := by
  intro e he
  rw [h] at he
  cases he
  exact hmem

/-- R185: a sequence can report the errors of its first part and those of what follows. -/
theorem ErrorsIn.bind {α β : Type} {pairs pairs' : List (Byte × Byte)} {x : Except PipelineError α}
    {f : α → Except PipelineError β} (hx : ErrorsIn pairs x) (hf : ∀ a, ErrorsIn pairs' (f a)) :
    ErrorsIn (pairs ++ pairs') (x >>= f) := by
  intro e he
  rcases bind_error he with hfirst | ⟨a, -, hrest⟩
  · exact List.mem_append_left _ (hx e hfirst)
  · exact List.mem_append_right _ (hf a e hrest)

section
variable (m : Inbuf) (port : Half) (w : Window)

theorem decodeHeader_errorsIn : ErrorsIn [(2, 4), (3, 4)] (decodeHeader m w) := by
  intro e he
  obtain ⟨hstage, hcode | hcode⟩ := decodeHeader_error he <;> rw [hstage, hcode] <;> decide

theorem decodeRecords_errorsIn (count : Nat) : ErrorsIn [(4, 4)] (decodeRecords m w count) := by
  intro e he
  obtain ⟨hstage, hcode⟩ := decodeRecords_error he
  rw [hstage, hcode]
  decide

theorem netflowDecode_errorsIn : ErrorsIn [(2, 4), (3, 4), (4, 4)] (netflowDecode m w) :=
  (decodeHeader_errorsIn m w).bind fun _ => (decodeRecords_errorsIn m w _).bind fun _ => errorsIn_ok _

theorem transportStage_errorsIn : ErrorsIn [(1, 3), (7, 3)] (transportStage m port w) := by
  rcases transportStage_cases m port w with ⟨-, hshort⟩ | ⟨-, -, hport⟩ | ⟨-, -, hok⟩
  · exact errorsIn_of_raiseError hshort (by decide)
  · exact errorsIn_of_raiseError hport (by decide)
  · exact errorsIn_of_ok hok

theorem netStage_errorsIn : ErrorsIn [(1, 2), (2, 2), (6, 2)] (netStage m w) := by
  rcases netStage_cases m w with
    ⟨-, hshort⟩ | ⟨-, -, hihl⟩ | ⟨-, -, -, hopts⟩ | ⟨-, -, -, -, hproto⟩ | ⟨-, -, -, -, hok⟩
  · exact errorsIn_of_raiseError hshort (by decide)
  · exact errorsIn_of_raiseError hihl (by decide)
  · exact errorsIn_of_raiseError hopts (by decide)
  · exact errorsIn_of_raiseError hproto (by decide)
  · exact errorsIn_of_ok hok

theorem linkStage_errorsIn : ErrorsIn [(1, 1), (5, 1)] (linkStage m w) := by
  rcases linkStage_cases m w with ⟨-, hshort⟩ | ⟨-, -, htype⟩ | ⟨-, -, hok⟩
  · exact errorsIn_of_raiseError hshort (by decide)
  · exact errorsIn_of_raiseError htype (by decide)
  · exact errorsIn_of_ok hok

theorem chainTransport_errorsIn :
    ErrorsIn [(1, 3), (7, 3), (2, 4), (3, 4), (4, 4)] (chainTransport m port w) :=
  (transportStage_errorsIn m port w).bind fun w' => netflowDecode_errorsIn m w'

theorem chainNetwork_errorsIn :
    ErrorsIn [(1, 2), (2, 2), (6, 2), (1, 3), (7, 3), (2, 4), (3, 4), (4, 4)] (chainNetwork m port w) :=
  (netStage_errorsIn m w).bind fun w' => chainTransport_errorsIn m port w'

theorem chainLink_errorsIn :
    ErrorsIn [(1, 1), (5, 1), (1, 2), (2, 2), (6, 2), (1, 3), (7, 3), (2, 4), (3, 4), (4, 4)]
      (chainLink m port w) :=
  (linkStage_errorsIn m w).bind fun w' => chainNetwork_errorsIn m port w'

end

/-- A write-back reports success or an error of what was answered. -/
theorem ErrorsIn.commit_mem {pairs : List (Byte × Byte)} {x : Except PipelineError DecodeResult}
    (h : ErrorsIn pairs x) (s : State) : ((s.commit x).status, (s.commit x).errStage) ∈ (0, 0) :: pairs := by
  rcases commit_cases s x with ⟨hstatus, hstage, -⟩ | ⟨e, he, hstatus, hstage⟩ <;> rw [hstatus, hstage]
  · exact List.mem_cons_self
  · exact List.mem_cons_of_mem _ (h e he)

/-- A cursor read or skip reports success or OUT_OF_BOUNDS of the cursor. -/
theorem CursorMove.status_mem {s t : State} (h : CursorMove s t) : (t.status, t.errStage) ∈ [(0, 0), (1, 5)] := by
  rcases h with ⟨_, _, _, rfl⟩ | ⟨_, _, -, rfl⟩ <;> simp

/-- R234's table, row by row. -/
theorem exec_status_mem_reportable {i : Instr} {s t : State} (h : exec i s = .next t) :
    (t.status, t.errStage) ∈ reportable i := by
  cases i with
  | cfgSetPort | curBind => cases h; exact List.mem_cons_self
  | curRead8 | curRead16 | curRead32 => exact (readCommand_next h).status_mem
  | curSkip => exact (execCurSkip_next h).status_mem
  | nfHeader => cases h; exact ((decodeHeader_errorsIn _ _).bind fun _ => errorsIn_ok _).commit_mem s
  | nfRecords => cases h; exact ((decodeRecords_errorsIn _ _ _).bind fun _ => errorsIn_ok _).commit_mem s
  | nfDecode => cases h; exact (netflowDecode_errorsIn _ _).commit_mem s
  | enterTransport => cases h; exact (chainTransport_errorsIn _ _ _).commit_mem s
  | enterNetwork => cases h; exact (chainNetwork_errorsIn _ _ _).commit_mem s
  | processFrame => cases h; exact (chainLink_errorsIn _ _ _).commit_mem s

/-- Settles O41: a row of R234's table for each command, and the one pair of an illegal word. -/
theorem commandsReportOnlyTheirErrors : Obligations.CommandsReportOnlyTheirErrors := by
  refine ⟨fun i s t h => exec_status_mem_reportable h, fun w s t hillegal h => ?_⟩
  rw [executeWord_of_illegal hillegal] at h
  cases h
  rfl

/-! ## Every word ends in a listed STATUS (R244) -/

/-- A word that goes on, legal or not, writes the whole status group, with listed values. -/
theorem executeWord_statusLegal {w : Word} {s t : State} (h : executeWord w s = .next t) : t.StatusLegal := by
  cases hlegal : legalWord w with
  | false =>
    rw [executeWord_of_illegal hlegal] at h
    cases h
    exact s.statusErr_statusLegal _
  | true =>
    obtain ⟨i, hdecode⟩ := decode_of_legal hlegal
    rw [executeWord_of_decode hdecode] at h
    exact exec_statusLegal h

/-- Settles O43: R25 is what makes the word go on, and no more is needed for its STATUS to be listed. -/
theorem everyWordEndsInAListedStatus : Obligations.EveryWordEndsInAListedStatus := by
  intro w s hs
  obtain ⟨t, h⟩ := executeWord_goes_on w hs
  exact ⟨t, h, (executeWord_statusLegal h).statusListed⟩

/-! ## The first error is the one reported (R240) -/

section
variable {m : Inbuf} {port : Half} {w : Window} {r : Rejection}

/-- With a version 5 header only the records are left to fail (R159). -/
theorem netflowDecode_of_version (hfits : 24 ≤ w.len) (hversion : m.u16 w.base = 5) :
    netflowDecode m w = (decodeRecords m w (m.u16 (w.base + 2)) >>= fun recs =>
      .ok ⟨some (m.headerAt w.base), bootTime (m.headerAt w.base), recs⟩) := by
  rw [netflowDecode, decodeHeader_of_version hfits hversion, ← m.headerAt_count_toNat]
  rfl

/-- R240, step 6: the header bytes, then the version, then the records. -/
theorem netflowDecode_raises (h : payloadRejection m w.base w.len = some r) : Raises (netflowDecode m w) r := by
  rw [payloadRejection] at h
  split_ifs at h with hshort hversion hcut <;> cases h
  · exact (raises_of_eq (code := .malformedHeader) (decodeHeader_of_short hshort)).bind _
  · exact (raises_of_eq (decodeHeader_of_other_version (Nat.not_lt.mp hshort) hversion)).bind _
  · have hcount : m.u16 (w.base + 2) ≠ 0 := by omega
    rw [netflowDecode_of_version (Nat.not_lt.mp hshort) (not_not.mp hversion)]
    exact (raises_of_eq (decodeRecords_of_cut (recordCutAt_lt hcount hcut))).bind _

/-- R240, step 5, and step 2 for what follows. -/
theorem chainTransport_raises (h : datagramRejection m port.toNat w.base w.len = some r) :
    Raises (chainTransport m port w) r := by
  rw [datagramRejection] at h
  rcases transportStage_cases m port w with ⟨hlen, hstage⟩ | ⟨hlen, hport, hstage⟩ | ⟨hlen, hport, hstage⟩
  · rw [if_pos hlen] at h
    cases h
    exact (raises_of_eq hstage).bind _
  · rw [if_neg (Nat.not_lt.mpr hlen), if_pos hport] at h
    cases h
    exact (raises_of_eq hstage).bind _
  · rw [if_neg (Nat.not_lt.mpr hlen), if_neg (not_not_intro hport)] at h
    rw [chainTransport, hstage]
    exact netflowDecode_raises (w := w.sub 8) h

/-- R240, step 4, and step 2 for what follows. -/
theorem chainNetwork_raises (h : packetRejection m port.toNat w.base w.len = some r) :
    Raises (chainNetwork m port w) r := by
  rw [packetRejection] at h
  rcases netStage_cases m w with ⟨hlen, hstage⟩ | ⟨hlen, hihl, hstage⟩ | ⟨hlen, hihl, hopts, hstage⟩ |
    ⟨hlen, hihl, hopts, hproto, hstage⟩ | ⟨hlen, hihl, hopts, hproto, hstage⟩
  · rw [if_pos hlen] at h
    cases h
    exact (raises_of_eq hstage).bind _
  · rw [if_neg (Nat.not_lt.mpr hlen), if_pos hihl] at h
    cases h
    exact (raises_of_eq hstage).bind _
  · rw [if_neg (Nat.not_lt.mpr hlen), if_neg (Nat.not_lt.mpr hihl), if_pos hopts] at h
    cases h
    exact (raises_of_eq hstage).bind _
  · rw [if_neg (Nat.not_lt.mpr hlen), if_neg (Nat.not_lt.mpr hihl), if_neg (Nat.not_lt.mpr hopts), if_pos hproto] at h
    cases h
    exact (raises_of_eq hstage).bind _
  · rw [if_neg (Nat.not_lt.mpr hlen), if_neg (Nat.not_lt.mpr hihl), if_neg (Nat.not_lt.mpr hopts),
      if_neg (not_not_intro hproto)] at h
    rw [chainNetwork, hstage]
    exact chainTransport_raises (w := w.sub _) h

/-- R240, step 3, and step 2 for what follows. -/
theorem chainLink_raises (h : frameRejection m port.toNat w.base w.len = some r) :
    Raises (chainLink m port w) r := by
  rw [frameRejection] at h
  rcases linkStage_cases m w with ⟨hlen, hstage⟩ | ⟨hlen, htype, hstage⟩ | ⟨hlen, htype, hstage⟩
  · rw [if_pos hlen] at h
    cases h
    exact (raises_of_eq hstage).bind _
  · rw [if_neg (Nat.not_lt.mpr hlen), if_pos htype] at h
    cases h
    exact (raises_of_eq hstage).bind _
  · rw [if_neg (Nat.not_lt.mpr hlen), if_neg (not_not_intro htype)] at h
    rw [chainLink, hstage]
    exact chainNetwork_raises (w := w.sub 14) h

end

/-- Settles O35: each chain command writes back the rejection that its chain raises over the whole of INBUF. -/
theorem theFirstErrorIsReported : Obligations.TheFirstErrorIsReported := by
  intro s m port len
  refine ⟨fun r h => ?payload, fun r h => ?datagram, fun r h => ?packet, fun r h => ?frame, fun w hillegal => ?word⟩
  case payload => exact congrArg Host.Outcome.next ((netflowDecode_raises (w := s.wholeInbuf) h).commit_eq s)
  case datagram => exact congrArg Host.Outcome.next ((chainTransport_raises (w := s.wholeInbuf) h).commit_eq s)
  case packet => exact congrArg Host.Outcome.next ((chainNetwork_raises (w := s.wholeInbuf) h).commit_eq s)
  case frame => exact congrArg Host.Outcome.next ((chainLink_raises (w := s.wholeInbuf) h).commit_eq s)
  case word => rw [executeWord_of_illegal hillegal, State.illegalCommand_eq_withStatus]

end Sys2Proof.Machine
end

section
/-! PROOFS. Reset (spec/70_reset_and_hazards.md R260): RESET leaves every register at its reset value whatever the state
was, and power-on is RESET's result. -/

namespace Sys2Proof.Machine

/-- R260: the machine at power-on is as RESET leaves it. -/
theorem State.resetAction_reset : State.reset.resetAction = State.reset := rfl

/-- R35 and R260: nothing of the block's earlier state outlives RESET, and with INBUF_LEN 0 INBUF has no address. -/
theorem State.resetAction_atResetValues (s : State) : s.resetAction.AtResetValues where
  inbuf a    := State.readByte_of_le (Nat.zero_le a)
  inbufLen   := rfl
  cfgPort    := rfl
  status     := rfl
  errStage   := rfl
  errA       := rfl
  errB       := rfl
  errC       := rfl
  hdrValid   := rfl
  hdr        := rfl
  bootTimeNs := rfl
  recCount   := rfl
  recs       := rfl
  curLen     := rfl
  curPos     := rfl
  curData    := rfl

/-- Each part of a legal state holds after RESET, whatever the state was. -/
theorem State.resetAction_legal (s : State) : s.resetAction.Legal where
  cursor := cursorLegal_kept.reset s
  result := resultLegal_kept.reset s
  header := headerCoherent_kept.reset s
  status := statusLegal_kept.reset s
  inbuf  := inbufLegal_kept.reset s

/-- Settles O10: RESET has a move in every state, and power-on is its result. -/
theorem resetSetsEveryRegister : Obligations.ResetSetsEveryRegister :=
  ⟨State.resetAction_reset ▸ State.reset.resetAction_atResetValues,
    fun _ _ hhost => ⟨_, step_of_host hhost, State.resetAction_atResetValues _⟩⟩

/-- Settles O50: power-on is a result of RESET, and every such state is legal. -/
theorem theResetStateIsLegal : Obligations.TheResetStateIsLegal := by
  rw [Obligations.TheResetStateIsLegal, ← State.resetAction_reset]
  exact State.reset.resetAction_legal

end Sys2Proof.Machine
end
